-- ==== Sys2Proof/Word.lean ====
section
/-! DEFINITION. The byte and word types, and tables of a fixed number of rows. -/

namespace Sys2Proof

/-- A byte of a frame, of the mailbox buffer or of the register window. -/
abbrev Byte := BitVec 8

/-- A stimulus word (R126). -/
abbrev Word := BitVec 16

/-- A table of exactly `n` rows, for the things the part has a fixed number of: ports, slots,
classes, engines. -/
structure Table (n : Nat) (α : Type) where
  rows : List α
  size : rows.length = n
deriving DecidableEq, Repr

variable {n : Nat} {α β : Type}

/-- `n` equal rows. -/
def Table.fill (n : Nat) (a : α) : Table n α := ⟨List.replicate n a, List.length_replicate⟩

/-- Row `i`. -/
def Table.get (t : Table n α) (i : Fin n) : α := t.rows[i.val]'(by rw [t.size]; exact i.isLt)

/-- The table with row `i` replaced. -/
def Table.set (t : Table n α) (i : Fin n) (a : α) : Table n α :=
  ⟨t.rows.set i.val a, by rw [List.length_set, t.size]⟩

/-- The table with every row changed by `f`. -/
def Table.map (f : α → β) (t : Table n α) : Table n β :=
  ⟨t.rows.map f, by rw [List.length_map, t.size]⟩

end Sys2Proof
end

