-- ==== Sys2Proof/Config.lean ====
section
/-! DEFINITION. What the part fixes: sizes, thresholds, codes and periods the spec gives as numbers.
The spec leaves no result value open, so there is no free value here (log 17). -/

namespace Sys2Proof.Config

/-- REFCLK periods in one millisecond: 25 MHz (chapter 11, 11.6; log 1). -/
def cyclesPerMs : Nat := 25000

/-- The age minute, 60,000 ms (R13). -/
def minuteMs : Nat := 60000

/-- Lane entries in the pool (R3). -/
def laneEntries : Nat := 192

/-- The greatest last-use stamp (R12). -/
def stampMax : Nat := 16777215

/-- The greatest generation (R7). -/
def genMax : Nat := 65535

/-- The greatest age (R13). -/
def ageMax : Nat := 65535

/-- Depth of a port's request queue (R70). -/
def requestDepth : Nat := 4

/-- Frames an output list holds (R72). -/
def listDepth : Nat := 24

/-- The Store Arbiter passes over a port whose list holds this many frames (R72, R76). -/
def grantThreshold : Nat := 12

/-- Answers given at once are dropped when the list holds this many frames (R75). -/
def answerThreshold : Nat := 16

/-- Consecutive bad frames the TOLERANT policy takes (R68). -/
def badLimit : Nat := 3

/-- Entries of the training queue (R103). -/
def queueEntries : Nat := 16

/-- The longest frame payload (R51, R53). -/
def payloadMax : Nat := 80

/-- Bytes of the mailbox buffer (R172). -/
def bufferBytes : Nat := 96

/-- The most lanes a record can have (R4). -/
def lanesMax : Nat := 16

/-- The sideband protocol version the part accepts (R58). -/
def version : Nat := 1

/-- The start byte of a frame (R51). -/
def startByte : Byte := 0xC5

/-- Vendor, part and revision codes (R193). -/
def vendorCode : Byte := 0x6A
def partCode : Byte := 0xC8
def revisionCode : Byte := 0x01

end Sys2Proof.Config
end

