-- ==== Sys2Proof/Syntax.lean ====
section
/-! DEFINITION. The commands of the block: one constructor for each row of spec/opcode_table.json,
with the operands the row's rule gives it. -/

namespace Sys2Proof

/-- Ports P0 to P7. -/
abbrev PortId := Fin 8
/-- Rate classes C0 to C3. -/
abbrev ClassId := Fin 4
/-- Record slots 0 to 23 (R1). -/
abbrev SlotId := Fin 24
/-- Sweep engines E0 and E1. -/
abbrev EngineId := Fin 2
/-- Port groups 0 to 3 (R112). -/
abbrev GroupId := Fin 4
/-- Pattern Table words 0 to 7 (R126). -/
abbrev PatternId := Fin 8

/-- Why a received frame is declared bad (R53). -/
inductive BadCause where
  /-- the length byte, which is greater than 80 -/
  | length (n : Byte)
  /-- a character from the kind byte to the check byte has a missing stop bit -/
  | stopBit
  /-- the check byte differs from the check computed over the bytes received -/
  | check (kind tag : Byte) (payload : List Byte) (check : Byte)
deriving DecidableEq, Repr

/-- A command. A frame command is one whole frame at its completion: port, tag, payload bytes
(log 8). A mailbox command works from the command copy, so it has no operand. -/
inductive Instr where
  | hardwareReset
  | softReset (alert : Bool)
  | alertEnableWrite (alert : Bool)
  | eventsWrite (v : Byte)
  | eventEnWrite (v : Byte)
  | registerWrite (addr : BitVec 16) (v : Byte)
  | trwWrite (v : Byte)
  | windowLimitWrite (v : Byte)
  | spaceAnyWrite (v : Byte)
  | spaceGroupWrite (v : Byte)
  | trialTimeoutWrite (v : Byte)
  | freshTimeWrite (v : Byte)
  | driftBudgetWrite (c : ClassId) (v : Byte)
  | ageLimitWrite (c : ClassId) (high : Byte)
  | trimLimitWrite (c : ClassId) (v : Byte)
  | errorPolicyWrite (p : PortId) (v : Byte)
  | autotrainWrite (p : PortId) (v : Byte)
  | patternWordWrite (w : PatternId) (high : Byte)
  | commandStart (code : Byte)
  | readRecord
  | preloadRecord
  | retireRecord
  | pin
  | unpin
  | queueTraining
  | cancelTraining
  | enablePort
  | disablePort
  | clearHold
  | setProfile
  | getProfile
  | listRecords
  | listQueue
  | hello (p : PortId) (tag : Byte) (payload : List Byte)
  | temp (p : PortId) (tag : Byte) (payload : List Byte)
  | autoRequest
  | lookup (p : PortId) (tag : Byte) (payload : List Byte)
  | applied (p : PortId) (tag : Byte) (payload : List Byte)
  | trim (p : PortId) (tag : Byte) (payload : List Byte)
  | train (p : PortId) (tag : Byte) (payload : List Byte)
  | retire (p : PortId) (tag : Byte) (payload : List Byte)
  | park (p : PortId) (tag : Byte) (payload : List Byte)
  | wake (p : PortId) (tag : Byte) (payload : List Byte)
  | resync (p : PortId) (tag : Byte) (payload : List Byte)
  | ready (p : PortId) (tag : Byte) (payload : List Byte)
  | result (p : PortId) (tag : Byte) (payload : List Byte)
  | badFrame (p : PortId) (cause : BadCause)
  | lookupService (p : PortId)
  | appliedService (p : PortId)
  | trimService (p : PortId)
  | retireService (p : PortId)
  | trainService (p : PortId)
  | parkService (p : PortId)
  | frameSent (p : PortId)
  | deferredFramePlacement (p : PortId)
  | freshnessExpiry (p : PortId)
  | ageTimerExpiry (i : SlotId)
  | trialTimerExpiry (e : EngineId)
  | temperatureMovementTest (e : EngineId)
  | startListDeparture
  | spaceAnyExpiry
  | spaceGroupExpiry (g : GroupId)
  | startDecision
  | rescan
  | reservation (e : EngineId)
  | commit (e : EngineId)
  | noEye (e : EngineId)
  | failureOperation (e : EngineId)
  | unknownKindFrame (p : PortId) (kind tag : Byte) (payload : List Byte)
  | startByteReceived (p : PortId)
deriving DecidableEq, Repr

end Sys2Proof
end

