-- ==== Sys2Proof/Machine/Check.lean ====
section
/-! DEFINITION. The frame check of R52 and the kind codes of R190. -/

namespace Sys2Proof.Machine

/-- One left shift of the check value: a 1 carried out is followed by an exclusive-or with 0x07
(R52). -/
def crcShift (v : Byte) : Byte := if v.msb then (v <<< 1) ^^^ 0x07 else v <<< 1

/-- One covered byte taken into the check value (R52). -/
def crcByte (v b : Byte) : Byte :=
  crcShift (crcShift (crcShift (crcShift (crcShift (crcShift (crcShift (crcShift (v ^^^ b))))))))

/-- CRC-8 over the bytes in order, from 0x00 (R52). -/
def crc8 (bytes : List Byte) : Byte := bytes.foldl crcByte 0x00

/-- The check of a frame: kind, tag, length and payload (R51, R52). -/
def frameCheck (kind tag : Byte) (payload : List Byte) : Byte :=
  crc8 (kind :: tag :: BitVec.ofNat 8 payload.length :: payload)

/-- Whether a kind byte is one of the link-controller-to-C8 kinds (R55, codes of R190). -/
def isLinkKind (kind : Byte) : Bool := 0x01 ≤ kind.toNat && kind.toNat ≤ 0x0C

/-- Whether a cause makes a received frame bad (R53). -/
def isBad : BadCause → Bool
  | .length n => Config.payloadMax < n.toNat
  | .stopBit => true
  | .check kind tag payload check => frameCheck kind tag payload != check

end Sys2Proof.Machine
end

