-- ==== Sys2Proof/WellFormed.lean ====
section
/-! DEFINITION. Which commands can arise: the checks on operands that the types do not make. -/

namespace Sys2Proof

/-- A good frame's payload has at most 80 bytes: a longer one is a bad frame (R51, R53). -/
def payloadFits (payload : List Byte) : Bool := payload.length ≤ Config.payloadMax

/-- The well-formed commands. -/
def Instr.wellFormed : Instr → Bool
  | .hello _ _ payload => payloadFits payload
  | .temp _ _ payload => payloadFits payload
  | .lookup _ _ payload => payloadFits payload
  | .applied _ _ payload => payloadFits payload
  | .trim _ _ payload => payloadFits payload
  | .train _ _ payload => payloadFits payload
  | .retire _ _ payload => payloadFits payload
  | .park _ _ payload => payloadFits payload
  | .wake _ _ payload => payloadFits payload
  | .resync _ _ payload => payloadFits payload
  | .ready _ _ payload => payloadFits payload
  | .result _ _ payload => payloadFits payload
  | .unknownKindFrame _ kind _ payload => payloadFits payload && !Machine.isLinkKind kind
  | .badFrame _ cause => Machine.isBad cause
  | .hardwareReset | .softReset _ | .alertEnableWrite _ | .eventsWrite _ | .eventEnWrite _
  | .registerWrite _ _ | .trwWrite _ | .windowLimitWrite _ | .spaceAnyWrite _ | .spaceGroupWrite _
  | .trialTimeoutWrite _ | .freshTimeWrite _ | .driftBudgetWrite _ _ | .ageLimitWrite _ _
  | .trimLimitWrite _ _ | .errorPolicyWrite _ _ | .autotrainWrite _ _ | .patternWordWrite _ _
  | .commandStart _ | .readRecord | .preloadRecord | .retireRecord | .pin | .unpin | .queueTraining
  | .cancelTraining | .enablePort | .disablePort | .clearHold | .setProfile | .getProfile
  | .listRecords | .listQueue | .autoRequest | .lookupService _ | .appliedService _ | .trimService _
  | .retireService _ | .trainService _ | .parkService _ | .frameSent _ | .deferredFramePlacement _
  | .freshnessExpiry _ | .ageTimerExpiry _ | .trialTimerExpiry _ | .temperatureMovementTest _
  | .startListDeparture | .spaceAnyExpiry | .spaceGroupExpiry _ | .startDecision | .rescan
  | .reservation _ | .commit _ | .noEye _ | .failureOperation _ | .startByteReceived _ => true

end Sys2Proof
end

