-- ==== Sys2Proof/Decode.lean ====
section
/-! DEFINITION. The command a word spells by the table's bits. -/

namespace Sys2Proof

/-- The command that a word of `nbits` bits spells by spec/opcode_table.json. No row of the table
gives bits (spec/98_reader.md: n_rows_with_fixed 0), so no word spells a command. -/
def decodeTableWord (_nbits _w : Nat) : Option Instr := none

end Sys2Proof
end

