-- ==== Sys2Proof/Machine/State.lean ====
section
/-! DEFINITION. Everything the spec gives the part, as plain data, and the state after hardware
reset. INVENTORY.md lists each field with its rule. -/

namespace Sys2Proof.Machine

/-- Why a step can stop with a fault. The spec gives every command an effect in every state
(log 17), so there is no such reason. -/
inductive Fault
deriving DecidableEq, Repr

/-- Why a step can be refused. -/
inductive Refusal where
  /-- Raised by an arm of `exec` whose command has no meaning yet; no arm does. Safe. -/
  | notModelled (mnemonic : String)
deriving DecidableEq, Repr

/-- A (port, class) pair that names a record (R2). -/
structure Key where
  port : PortId
  cls : ClassId
deriving DecidableEq, Repr

/-- A running timer: the time it was started, and its period, in REFCLK periods. -/
structure Timer where
  since : Nat
  period : Nat
deriving DecidableEq, Repr

/-! ### Records and slots (chapter 1) -/

/-- The fitness of a record (R4). -/
inductive Condition where
  | current | stale | dormant
deriving DecidableEq, Repr

/-- How a record came to be (R4). -/
inductive RecordOrigin where
  | trained | loaded
deriving DecidableEq, Repr

/-- The condition of a lane (R5, R132). -/
inductive LaneCond where
  | good | marginal | failed
deriving DecidableEq, Repr

/-- Reference level and reference width, present together or not at all (R5). -/
structure RefFields where
  level : Nat
  width : Nat
deriving DecidableEq, Repr

/-- One lane entry (R5). -/
structure LaneEntry where
  tap : Nat
  eyeWidth : Nat
  ref : Option RefFields
  cond : LaneCond
  trim : Int
deriving DecidableEq, Repr

/-- A calibration record (R4), with the start of the present minute of its age timer (R13). -/
structure Record where
  key : Key
  cond : Condition
  gen : Nat
  applied : Option Nat
  origin : RecordOrigin
  trained : Int
  age : Nat
  pinned : Bool
  holdOff : Bool
  stamp : Nat
  laneCount : Nat
  lanes : List LaneEntry
  ageSince : Nat
deriving DecidableEq, Repr

/-- A slot of the store (R1). -/
inductive Slot where
  | free
  | reserved (key : Key) (lanes : Nat)
  | occupied (r : Record)
deriving DecidableEq, Repr

/-- What a snapshot of a record shows (R6). -/
structure Snapshot where
  key : Key
  cond : Condition
  gen : Nat
  applied : Option Nat
  origin : RecordOrigin
  trained : Int
  age : Nat
  pinned : Bool
  holdOff : Bool
  jobQueued : Bool
  jobRunning : Bool
  lanes : List LaneEntry
deriving DecidableEq, Repr

/-! ### Profiles and budgets (chapters 2 and 8) -/

/-- The rule by which a profile assigns stimulus words to lanes (R127). -/
inductive Arrangement where
  | common | rotate | alternate
deriving DecidableEq, Repr

/-- A class profile (R158). -/
structure Profile where
  laneCount : Nat
  refEnable : Bool
  defaultRef : Nat
  passThreshold : Nat
  minWidth : Nat
  goodWidth : Nat
  minRefWidth : Nat
  goodRefWidth : Nat
  baseWord : Nat
  arrangement : Arrangement
  advance : Bool
deriving DecidableEq, Repr

/-- The three parameters of a class (R40), and the held low byte of its age limit register
(R171). -/
structure Budget where
  drift : Nat
  ageLimit : Nat
  trimLimit : Nat
  ageHeld : Option Byte
deriving DecidableEq, Repr

/-! ### Jobs (chapter 5) -/

/-- Who asked first for a sweep (R102). -/
inductive JobOrigin where
  | port | management | auto
deriving DecidableEq, Repr

/-- How urgent a job is (R102). -/
inductive Urgency where
  | routine | urgent
deriving DecidableEq, Repr

/-- A training job (R102). It is QUEUED while it stands in `State.queued` and RUNNING while it
stands in an engine's context. -/
structure Job where
  key : Key
  origin : JobOrigin
  urgency : Urgency
  attempts : Nat
deriving DecidableEq, Repr

/-- The result with which a job ends (R118, R156). -/
inductive JobOutcome where
  | committed | part | noEye | storeFull | unresponsive | unsettled | cancelled | deferred
deriving DecidableEq, Repr

/-! ### Frames the C8 sends (R56) -/

/-- ANSWER status codes and mailbox result codes, one numbering (R190). -/
inductive Status where
  | none | done | absent | classDisabled | staleGeneration | notApplied | notCurrent | outOfRange
  | trimLimit | busy | pinned | queued | raised | alreadyQueued | alreadyRunning | trainingFull
  | requestsFull | notOnline | badVersion | malformed | badValue | badCommand | laneMismatch
  | jobPending | storeFull | portOffline | portEnabled | wrongState | noJob
deriving DecidableEq, Repr

/-- The kinds of NOTICE (R100). -/
inductive NoticeKind where
  | stale | replaced | retired
deriving DecidableEq, Repr

/-- The job flags of an ANSWER (R82). -/
structure JobFlags where
  queued : Bool
  running : Bool
deriving DecidableEq, Repr

/-- The phase a TRIAL names (R56). -/
inductive TrialPhase where
  | delay | reference
deriving DecidableEq, Repr

/-- What a TRIAL directs on one lane (R56, R129, R134). -/
structure TrialLane where
  tap : Nat
  ref : Option Nat
  word : Word
deriving DecidableEq, Repr

/-- A frame from the C8 (R56); the tag stands only where the kind carries one. -/
inductive OutFrame where
  | welcome (tag : Byte) (classes : List (Nat × Bool))
  | answer (tag : Byte) (status : Status) (gen : Option Nat) (flags : Option JobFlags)
  | record (tag : Byte) (snap : Snapshot)
  | notice (cls : ClassId) (kind : NoticeKind) (gen : Nat)
  | beginTraining (cls : ClassId) (id : Byte)
  | trial (id : Byte) (phase : TrialPhase) (lanes : List TrialLane)
  | endTraining (cls : ClassId) (outcome : JobOutcome) (gen : Option Nat)
  | nak
  | hold
deriving DecidableEq, Repr

/-- A frame of an output list, with the engine whose present run it belongs to, if any (R141, R146). -/
structure OutEntry where
  frame : OutFrame
  owner : Option EngineId
deriving DecidableEq, Repr

/-- A frame held back by the limit of 24. `waits` is the place, counted from 1 at the head of the output
list, of the frame whose removal it waits for, and 0 once that frame has gone (R72, log 10). -/
structure HeldFrame where
  entry : OutEntry
  waits : Nat
deriving DecidableEq, Repr

/-! ### Ports (chapters 2 and 3) -/

/-- Port states (section 3.3). -/
inductive PortState where
  | offline | syncing | online | parked | held
deriving DecidableEq, Repr

/-- The receiver of a port (R50, R51): `taken` are the bytes of the frame in reception after its start
byte, in order. -/
inductive Rx where
  | stopped
  | hunting
  | inFrame (taken : List Byte)
deriving DecidableEq, Repr

/-- Error policies (R68, R69). -/
inductive Policy where
  | tolerant | strict
deriving DecidableEq, Repr

/-- The temperature state of a port, in steps of 0.5 °C, with its freshness timer (R30). -/
inductive TempState where
  | unknown
  | fresh (v : Int) (timer : Timer)
deriving DecidableEq, Repr

/-- The fields of a port request (R55). -/
inductive ReqBody where
  | lookup (c : ClassId)
  | applied (c : ClassId) (gen : Nat)
  | trim (c : ClassId) (gen : Nat) (deltas : List Int)
  | train (c : ClassId) (u : Urgency)
  | retire (c : ClassId)
  | park
deriving DecidableEq, Repr

/-- A request in a port's queue (R70). -/
structure Request where
  tag : Byte
  body : ReqBody
deriving DecidableEq, Repr

/-- A Port Unit, with the port's temperature state and last-outcome register. The output list is
`tx` followed by `pend`. `char` is the character in reception, as the data bits taken after its start
bit, and `sent` counts the bits of the frame on SBOn that have left (R50). -/
structure Port where
  state : PortState
  rx : Rx
  char : Option (List Bool)
  bad : Nat
  policy : Policy
  autotrain : Bool
  temp : TempState
  reqs : List Request
  tx : Option OutEntry
  pend : List OutEntry
  heldBack : List HeldFrame
  finishing : Option OutEntry
  sent : Nat
  lastOutcome : Option (JobOutcome × ClassId)
deriving DecidableEq, Repr

/-! ### Sweep engines (chapter 6) -/

/-- The phases of a job (R123); `claim` is the time from the start to the reservation. -/
inductive Phase where
  | claim | announce | delaySweep | refSweep | evaluate | commit | finish
deriving DecidableEq, Repr

/-- The Record Store operation an engine has asked for and the store has not yet taken. -/
inductive StoreRequest where
  | reserve
  | commit
  | noEye
  | failure (o : JobOutcome)
deriving DecidableEq, Repr

/-- The tap and reference level of a lane before the job (R123). -/
structure PriorLane where
  tap : Nat
  ref : Option Nat
deriving DecidableEq, Repr

/-- A lane's eye and the condition found from it (R131, R132, R134); width 0 is no eye. -/
structure Eye where
  start : Nat
  width : Nat
  cond : LaneCond
deriving DecidableEq, Repr

/-- The context of a running job (R123). `leaving` is the id of the last BEGIN or TRIAL placed,
until it has left SBOn (R125). A pass map holds, for each lane, one entry for each setting:
passed, failed, or not yet tried (none). -/
structure Ctx where
  job : Job
  phase : Phase
  index : Nat
  outstanding : Option Byte
  leaving : Option Byte
  timer : Option Timer
  retry : Bool
  profile : Profile
  patterns : Table 8 Word
  startTemp : Int
  prior : Option (List PriorLane)
  delayMap : List (List (Option Bool))
  delayEye : List Eye
  refMap : List (List (Option Bool))
  refEye : List Eye
  request : Option StoreRequest
deriving DecidableEq, Repr

/-- A temperature-movement test handed to an engine and not yet taken (R147). -/
structure TempTest where
  port : PortId
  v : Int
deriving DecidableEq, Repr

/-- A sweep engine; it is IDLE when it has no context (R123). -/
structure Engine where
  nextId : Byte
  ctx : Option Ctx
  tests : List TempTest
deriving DecidableEq, Repr

/-! ### Mailbox (chapter 9) -/

/-- The bytes of a buffer that are not 0x00, by offset, offsets strictly rising. -/
abbrev Memory := List Host.Cell

/-- The command copy taken at a command's start (R172). -/
structure CmdCopy where
  code : Byte
  port : Byte
  cls : Byte
  urgency : Byte
  buffer : Option Memory
deriving DecidableEq, Repr

/-- The mailbox (R172); it is BUSY while a command copy stands. -/
structure Mailbox where
  cmd : Byte
  argPort : Byte
  argClass : Byte
  argUrgency : Byte
  result : Status
  retired : Bool
  buffer : Memory
  copy : Option CmdCopy
deriving DecidableEq, Repr

/-! ### The SPI target (chapter 9) -/

/-- The two SPI instructions (R170). -/
inductive SpiOp where
  | read | write
deriving DecidableEq, Repr

/-- Where a transaction stands (R170, R187). The address is that of the next data byte. In a READ,
`captured` is the next byte where it is the second of a captured register (R171), and `driving` are
the bits of the byte on MISO, the one now driven first. -/
inductive SpiPhase where
  | instruction
  | addressHigh (op : SpiOp)
  | addressLow (op : SpiOp) (high : Byte)
  | write (addr : BitVec 16)
  | read (addr : BitVec 16) (captured : Option Byte) (driving : List Bool)
  | ignored
deriving DecidableEq, Repr

/-- A transaction in progress, with the bits of MOSI sampled of the present byte (R170). -/
structure Spi where
  phase : SpiPhase
  sampled : List Bool
deriving DecidableEq, Repr

/-! ### The whole part -/

/-- The state of the block. -/
structure State where
  pending : List Instr
  now : Nat
  ports : Table 8 Port
  slots : Table 24 Slot
  free : Nat
  stamp : Nat
  arb : Fin 9
  budgets : Table 4 Budget
  freshTime : Nat
  profiles : Table 8 (Table 4 Profile)
  queued : List Job
  startList : List Nat
  lastAny : Option Nat
  lastGroup : Table 4 (Option Nat)
  spaceAnyTimer : Option Nat
  spaceGroupTimer : Table 4 (Option Nat)
  trw : Nat
  windowLimit : Nat
  spaceAny : Nat
  spaceGroup : Nat
  decision : Bool
  rescans : Nat
  autoReqs : List Key
  engines : Table 2 Engine
  trialTimeout : Nat
  patterns : Table 8 Word
  patternHeld : Table 8 (Option Byte)
  mb : Mailbox
  spi : Option Spi
  events : Byte
  eventEn : Byte
  alertEnable : Bool
deriving DecidableEq, Repr

/-! ### Hardware reset -/

/-- A Port Unit after hardware reset (R78, R48, R140). -/
def Port.reset : Port where
  state := .offline
  rx := .stopped
  char := none
  bad := 0
  policy := .tolerant
  autotrain := false
  temp := .unknown
  reqs := []
  tx := none
  pend := []
  heldBack := []
  finishing := none
  sent := 0
  lastOutcome := none

/-- A profile after hardware reset (R158). -/
def Profile.reset : Profile where
  laneCount := 0
  refEnable := false
  defaultRef := 16
  passThreshold := 0
  minWidth := 6
  goodWidth := 12
  minRefWidth := 4
  goodRefWidth := 8
  baseWord := 0
  arrangement := .common
  advance := false

/-- The class budgets after hardware reset (R40). -/
def resetBudgets : Table 4 Budget :=
  ⟨[⟨20, 240, 8, none⟩, ⟨16, 120, 8, none⟩, ⟨12, 60, 8, none⟩, ⟨8, 30, 8, none⟩], rfl⟩

/-- The Pattern Table after hardware reset (R126). -/
def resetPatterns : Table 8 Word :=
  ⟨[0xA5C3, 0x3C96, 0xF00F, 0x6B2D, 0x8E71, 0x1F1F, 0xD24B, 0x0000], rfl⟩

/-- An engine after hardware reset (R140). -/
def Engine.reset : Engine := ⟨0, none, []⟩

/-- The mailbox after hardware reset (R188). -/
def Mailbox.reset : Mailbox := ⟨0, 0, 0, 0, .none, false, [], none⟩

/-- The part right after hardware reset (R28, R48, R78, R121, R140, R160, R169, R188). The queue
of commands is empty and the time is 0 (log 18, log 1). -/
def State.reset : State where
  pending := []
  now := 0
  ports := .fill 8 .reset
  slots := .fill 24 .free
  free := Config.laneEntries
  stamp := 0
  arb := 0
  budgets := resetBudgets
  freshTime := 10
  profiles := .fill 8 (.fill 4 .reset)
  queued := []
  startList := []
  lastAny := none
  lastGroup := .fill 4 none
  spaceAnyTimer := none
  spaceGroupTimer := .fill 4 none
  trw := 20
  windowLimit := 4
  spaceAny := 1
  spaceGroup := 4
  decision := false
  rescans := 0
  autoReqs := []
  engines := .fill 2 .reset
  trialTimeout := 2
  patterns := resetPatterns
  patternHeld := .fill 8 none
  mb := .reset
  spi := none
  events := 0
  eventEn := 0
  alertEnable := false

end Sys2Proof.Machine
end

