-- ==== Sys2Proof/Machine/Flags.lean ====
section
/-! DEFINITION. The event flags and ALERT_N (R185, R186). -/

namespace Sys2Proof.Machine

/-- The eight event flags (R185). -/
inductive EventFlag where
  | portHeld | jobFailed | storeFull | evicted | queueFull | staleSeen | mbDone | mbRefused
deriving DecidableEq, Repr

/-- The position of a flag in EVENTS and EVENT_EN (R193). -/
def EventFlag.bit : EventFlag → Nat
  | .portHeld => 0
  | .jobFailed => 1
  | .storeFull => 2
  | .evicted => 3
  | .queueFull => 4
  | .staleSeen => 5
  | .mbDone => 6
  | .mbRefused => 7

/-- The mask of a flag. -/
def EventFlag.mask (f : EventFlag) : Byte := 1#8 <<< f.bit

/-- A flag is raised; raising a raised flag leaves it raised (R185). -/
def State.raise (s : State) (f : EventFlag) : State := { s with events := s.events ||| f.mask }

/-- Whether a flag is raised. -/
def State.raised (s : State) (f : EventFlag) : Bool := s.events.getLsbD f.bit

/-- The flags left by a write-1-to-clear write (R171, R185). -/
def clearFlags (events written : Byte) : Byte := events &&& ~~~written

/-- ALERT_N is driven low while the ALERT enable is set and an enabled flag is raised (R186). -/
def State.alertLow (s : State) : Bool := s.alertEnable && (s.events &&& s.eventEn) != 0

end Sys2Proof.Machine
end

