-- ==== Sys2Proof/Machine/Memory.lean ====
section
/-! DEFINITION. The mailbox buffer as an addressed memory of 96 bytes (R172, R192). An unlisted
offset reads 0x00, the value of hardware reset (R188). -/

namespace Sys2Proof.Machine

/-- The canonical form from offset `lo` on: offsets strictly rising and below 96, no byte 0x00. -/
def Memory.wfFrom (lo : Nat) : Memory → Bool
  | [] => true
  | (a, b) :: m => lo ≤ a && a < Config.bufferBytes && b != 0 && Memory.wfFrom (a + 1) m

/-- The canonical form. -/
def Memory.wf (m : Memory) : Bool := Memory.wfFrom 0 m

/-- The byte at an offset. -/
def Memory.read : Memory → Nat → Byte
  | [], _ => 0
  | (x, b) :: m, a => if x = a then b else Memory.read m a

/-- The listing with offset `a` holding `v`; a byte 0x00 is not listed. -/
def Memory.store : Memory → Nat → Byte → Memory
  | [], a, v => if v = 0 then [] else [(a, v)]
  | (x, b) :: m, a, v =>
    if a < x then (if v = 0 then (x, b) :: m else (a, v) :: (x, b) :: m)
    else if x = a then (if v = 0 then m else (a, v) :: m)
    else (x, b) :: Memory.store m a v

/-- A write of one byte; the buffer has 96 of them. -/
def Memory.write (m : Memory) (a : Nat) (v : Byte) : Memory :=
  if a < Config.bufferBytes then Memory.store m a v else m

/-- The buffer that holds `bytes` from offset `at` on, and zero elsewhere. -/
def Memory.ofBytesFrom (off : Nat) : List Byte → Memory
  | [] => []
  | b :: bs =>
    if off < Config.bufferBytes ∧ b ≠ 0 then (off, b) :: Memory.ofBytesFrom (off + 1) bs
    else Memory.ofBytesFrom (off + 1) bs

/-- The buffer a command writes: `bytes` from offset 0, zero beyond (R165, R175, R184). -/
def Memory.ofBytes (bytes : List Byte) : Memory := Memory.ofBytesFrom 0 bytes

/-- `n` bytes from offset `off`. -/
def Memory.slice (m : Memory) (off n : Nat) : List Byte :=
  (List.range n).map fun i => m.read (off + i)

end Sys2Proof.Machine
end

