-- ==== Sys2Proof/Machine/Operands.lean ====
section
/-! DEFINITION. Operands and formats: the fields of received payloads (R54, R55, R189, R190), the
payloads of sent frames (R190, R191), and the mailbox buffer layouts (R191, R192). -/

namespace Sys2Proof.Machine

/-! ### Bytes and fields -/

/-- The low byte of a number. -/
def toByte (n : Nat) : Byte := BitVec.ofNat 8 n

/-- A 16-bit field, low byte first (R189). -/
def le16 (n : Nat) : List Byte := [toByte n, toByte (n / 256)]

/-- The number two bytes hold, low byte first (R189). -/
def fromLe16 (lo hi : Byte) : Nat := lo.toNat + 256 * hi.toNat

/-- The signed number two bytes hold, low byte first (R189). -/
def signed16 (lo hi : Byte) : Int := (BitVec.ofNat 16 (fromLe16 lo hi)).toInt

/-- A temperature as two bytes (R189). -/
def tempBytes (t : Int) : List Byte := le16 (BitVec.ofInt 16 t).toNat

/-- A 5-bit two's-complement code (R191). -/
def signedCode5 (t : Int) : Nat := (BitVec.ofInt 5 t).toNat

/-- The number of a 5-bit two's-complement code (R191). -/
def fromCode5 (n : Nat) : Int := (BitVec.ofNat 5 n).toInt

/-- One bit as a number. -/
def bit (b : Bool) : Nat := if b then 1 else 0

/-- Whether a temperature is one of the valid values, −64.0 to +127.5 °C (R189). -/
def validTemp (t : Int) : Bool := -128 ≤ t && t ≤ 255

/-- The key byte: port in bits 0 to 2, class in bits 4 and 5 (R189). -/
def keyByte (k : Key) : Byte := toByte (k.port.val + 16 * k.cls.val)

/-- The class a byte names; a byte above 3 names none (R54, R189). -/
def toClass (b : Byte) : Option ClassId := if h : b.toNat < 4 then some ⟨b.toNat, h⟩ else none

/-- The port a byte names; a byte above 7 names none. -/
def toPort (b : Byte) : Option PortId := if h : b.toNat < 8 then some ⟨b.toNat, h⟩ else none

/-- The urgency a byte names (R189). -/
def toUrgency (b : Byte) : Option Urgency :=
  if b = 0 then some .routine else if b = 1 then some .urgent else none

/-! ### Payloads from link controllers (R55, R190): `none` is MALFORMED -/

/-- A payload of one class byte: LOOKUP and RETIRE. -/
def parseClass : List Byte → Option ClassId
  | [c] => toClass c
  | _ => none

/-- APPLIED: class, generation. -/
def parseApplied : List Byte → Option (ClassId × Nat)
  | [c, g0, g1] => (toClass c).map fun c => (c, fromLe16 g0 g1)
  | _ => none

/-- TRAIN: class, urgency. -/
def parseTrain : List Byte → Option (ClassId × Urgency)
  | [c, u] =>
    match toClass c, toUrgency u with
    | some c, some u => some (c, u)
    | _, _ => none
  | _ => none

/-- Whether a TRIM delta lies in −3 to +3. -/
def validDelta (d : Int) : Bool := -3 ≤ d && d ≤ 3

/-- TRIM: class, generation, deltas. `lanes` gives the lane count of a class's profile. A TRIM for
a disabled class is judged neither on its length nor on its deltas, up to 16 of them (R54). -/
def parseTrim (lanes : Table 4 Nat) : List Byte → Option (ClassId × Nat × List Int)
  | c :: g0 :: g1 :: ds =>
    match toClass c with
    | none => none
    | some c =>
      let deltas := ds.map BitVec.toInt
      let good :=
        if lanes.get c = 0 then ds.length ≤ Config.lanesMax
        else ds.length = lanes.get c ∧ deltas.all validDelta
      if good then some (c, fromLe16 g0 g1, deltas) else none
  | _ => none

/-- TEMP: the temperature, whatever its value (R54). -/
def parseTemp : List Byte → Option Int
  | [lo, hi] => some (signed16 lo hi)
  | _ => none

/-- A payload of one byte: HELLO's version, READY's trial id. -/
def parseByte : List Byte → Option Byte
  | [b] => some b
  | _ => none

/-- A payload of no bytes: PARK, WAKE, RESYNC. -/
def parseEmpty : List Byte → Option Unit
  | [] => some ()
  | _ => none

/-- RESULT: trial id and one error count for each of `lanes` lanes. -/
def parseResult (lanes : Nat) : List Byte → Option (Byte × List Nat)
  | id :: counts => if counts.length = lanes then some (id, counts.map BitVec.toNat) else none
  | [] => none

/-! ### Codes -/

/-- Status and result codes (R190). -/
def Status.code : Status → Byte
  | .none => 0x00
  | .done => 0x01
  | .absent => 0x02
  | .classDisabled => 0x03
  | .staleGeneration => 0x04
  | .notApplied => 0x05
  | .notCurrent => 0x06
  | .outOfRange => 0x07
  | .trimLimit => 0x08
  | .busy => 0x09
  | .pinned => 0x0A
  | .queued => 0x0B
  | .raised => 0x0C
  | .alreadyQueued => 0x0D
  | .alreadyRunning => 0x0E
  | .trainingFull => 0x0F
  | .requestsFull => 0x10
  | .notOnline => 0x11
  | .badVersion => 0x12
  | .malformed => 0x13
  | .badValue => 0x20
  | .badCommand => 0x21
  | .laneMismatch => 0x22
  | .jobPending => 0x23
  | .storeFull => 0x24
  | .portOffline => 0x25
  | .portEnabled => 0x26
  | .wrongState => 0x27
  | .noJob => 0x28

/-- Outcome codes (R190); 0 is NONE, in the register only. -/
def JobOutcome.code : JobOutcome → Byte
  | .committed => 1
  | .part => 2
  | .noEye => 3
  | .storeFull => 4
  | .unresponsive => 5
  | .unsettled => 6
  | .cancelled => 7
  | .deferred => 8

/-- Condition codes of the record body (R191). -/
def Condition.code : Condition → Nat
  | .current => 0
  | .stale => 1
  | .dormant => 2

/-- Lane condition codes (R191). -/
def LaneCond.code : LaneCond → Nat
  | .good => 0
  | .marginal => 1
  | .failed => 2

/-- The lane condition a code names (R191). -/
def toLaneCond : Nat → Option LaneCond
  | 0 => some .good
  | 1 => some .marginal
  | 2 => some .failed
  | _ => none

/-- NOTICE kind codes (R190). -/
def NoticeKind.code : NoticeKind → Byte
  | .stale => 0
  | .replaced => 1
  | .retired => 2

/-- Arrangement codes (R192). -/
def Arrangement.code : Arrangement → Byte
  | .common => 0
  | .rotate => 1
  | .alternate => 2

/-- Job origin codes of the queue list (R192). -/
def JobOrigin.code : JobOrigin → Nat
  | .port => 0
  | .management => 1
  | .auto => 2

/-! ### The record body (R191) -/

/-- A lane entry's bytes: 3 without reference, 4 with (R191). -/
def LaneEntry.bytes (l : LaneEntry) : List Byte :=
  let first := [toByte (l.tap + 64 * l.cond.code), toByte l.eyeWidth]
  match l.ref with
  | none => first ++ [toByte (signedCode5 l.trim)]
  | some r => first ++ le16 (signedCode5 l.trim + 32 * r.level + 1024 * r.width)

/-- The record body (R191). The reference presence is that of the lanes. -/
def Snapshot.bytes (sn : Snapshot) : List Byte :=
  let origin := match sn.origin with | .trained => 0 | .loaded => 1
  [keyByte sn.key,
   toByte (sn.cond.code + 4 * origin + 8 * bit sn.pinned + 16 * bit sn.holdOff
     + 32 * bit sn.jobQueued + 64 * bit sn.jobRunning)]
  ++ le16 sn.gen ++ le16 (sn.applied.getD 0) ++ tempBytes sn.trained ++ le16 sn.age
  ++ [toByte (sn.lanes.length + 128 * bit (sn.lanes.any fun l => l.ref.isSome))]
  ++ (sn.lanes.map LaneEntry.bytes).flatten

/-! ### Frames the C8 sends (R190) -/

/-- Kind codes (R190). -/
def OutFrame.kind : OutFrame → Byte
  | .welcome _ _ => 0x81
  | .answer _ _ _ _ => 0x82
  | .record _ _ => 0x83
  | .notice _ _ _ => 0x84
  | .beginTraining _ _ => 0x85
  | .trial _ _ _ => 0x86
  | .endTraining _ _ _ => 0x87
  | .nak => 0x88
  | .hold => 0x89

/-- The tag: that of the frame answered, or 0 (R56). -/
def OutFrame.tag : OutFrame → Byte
  | .welcome tag _ => tag
  | .answer tag _ _ _ => tag
  | .record tag _ => tag
  | .notice _ _ _ => 0
  | .beginTraining _ _ => 0
  | .trial _ _ _ => 0
  | .endTraining _ _ _ => 0
  | .nak => 0
  | .hold => 0

/-- The flags byte of an ANSWER (R189). -/
def flagsByte : Option JobFlags → Byte
  | none => 0
  | some f => toByte (bit f.queued + 2 * bit f.running + 128)

/-- The bytes a TRIAL carries for one lane (R190). -/
def TrialLane.bytes (l : TrialLane) : List Byte :=
  [toByte l.tap] ++ (match l.ref with | none => [] | some r => [toByte r]) ++ le16 l.word.toNat

/-- The payload of a sent frame (R190). -/
def OutFrame.payload : OutFrame → List Byte
  | .welcome _ classes =>
    toByte Config.version :: classes.map fun c => toByte (c.1 + 128 * bit c.2)
  | .answer _ status gen flags => status.code :: le16 (gen.getD 0) ++ [flagsByte flags]
  | .record _ snap => snap.bytes
  | .notice cls kind gen => toByte cls.val :: kind.code :: le16 gen
  | .beginTraining cls id => [toByte cls.val, id]
  | .trial id phase lanes =>
    id :: (match phase with | .delay => 0 | .reference => 1)
      :: (lanes.map TrialLane.bytes).flatten
  | .endTraining cls outcome gen => toByte cls.val :: outcome.code :: le16 (gen.getD 0)
  | .nak => []
  | .hold => []

/-- The bytes of a sent frame on the line: start, kind, tag, length, payload, check (R51, R52). -/
def OutFrame.wire (f : OutFrame) : List Byte :=
  Config.startByte :: f.kind :: f.tag :: toByte f.payload.length
    :: f.payload ++ [frameCheck f.kind f.tag f.payload]

/-! ### Profiles (R192) -/

/-- The eleven bytes of a profile, in the order GET_PROFILE writes them. -/
def Profile.bytes (p : Profile) : List Byte :=
  [toByte p.laneCount, toByte (bit p.refEnable), toByte p.defaultRef, toByte p.passThreshold,
   toByte p.minWidth, toByte p.goodWidth, toByte p.minRefWidth, toByte p.goodRefWidth,
   toByte p.baseWord, p.arrangement.code, toByte (bit p.advance)]

/-- A yes-or-no field. -/
def toYesNo (b : Byte) : Option Bool :=
  if b = 0 then some false else if b = 1 then some true else none

/-- The arrangement a code names (R192). -/
def toArrangement (b : Byte) : Option Arrangement :=
  if b = 0 then some .common else if b = 1 then some .rotate
  else if b = 2 then some .alternate else none

/-- Every field of a profile lies within its range and the width relations hold (R158, R162). -/
def Profile.valid (p : Profile) : Bool :=
  p.laneCount ≤ 16 && p.defaultRef ≤ 31 && p.passThreshold ≤ 255
  && 1 ≤ p.minWidth && p.minWidth ≤ p.goodWidth && p.goodWidth ≤ 64
  && 1 ≤ p.minRefWidth && p.minRefWidth ≤ p.goodRefWidth && p.goodRefWidth ≤ 32
  && p.baseWord ≤ 7

/-- The profile a buffer carries; none where R162 refuses it. -/
def readProfile (m : Memory) : Option Profile :=
  match toYesNo (m.read 1), toArrangement (m.read 9), toYesNo (m.read 10) with
  | some refEnable, some arrangement, some advance =>
    let p : Profile :=
      { laneCount := (m.read 0).toNat, refEnable, defaultRef := (m.read 2).toNat
        passThreshold := (m.read 3).toNat, minWidth := (m.read 4).toNat
        goodWidth := (m.read 5).toNat, minRefWidth := (m.read 6).toNat
        goodRefWidth := (m.read 7).toNat, baseWord := (m.read 8).toNat, arrangement, advance }
    if p.valid then some p else none
  | _, _, _ => none

/-! ### The record a PRELOAD_RECORD reads (R176, R191) -/

/-- A buffer's lane count field (R191). -/
def bufferLanes (m : Memory) : Nat := (m.read 10).toNat % 32

/-- A buffer's reference presence (R191). -/
def bufferRef (m : Memory) : Bool := (m.read 10).msb

/-- A buffer's trained temperature (R191). -/
def bufferTrained (m : Memory) : Int := signed16 (m.read 6) (m.read 7)

/-- A buffer's age (R191). -/
def bufferAge (m : Memory) : Nat := fromLe16 (m.read 8) (m.read 9)

/-- The fields of a buffer's lane `i` as they stand; the lane condition may be a code that names
none. -/
def bufferLane (m : Memory) (i : Nat) : Option LaneEntry :=
  let size := if bufferRef m then 4 else 3
  let off := 11 + size * i
  let b0 := (m.read off).toNat
  let low := (m.read (off + 2)).toNat
  let field := fromLe16 (m.read (off + 2)) (m.read (off + 3))
  (toLaneCond (b0 / 64)).map fun cond =>
    { tap := b0 % 64
      eyeWidth := (m.read (off + 1)).toNat % 128
      ref := if bufferRef m then some ⟨field / 32 % 32, field / 1024⟩ else none
      cond
      trim := if bufferRef m then fromCode5 field else fromCode5 low }

/-- Whether a preloaded lane's fields lie within their ranges, the trim limit included (R176,
check 4). -/
def preloadLaneOk (trimLimit : Nat) (l : LaneEntry) : Bool :=
  l.tap ≤ 63 && l.eyeWidth ≤ 64 && (l.cond != .failed || l.eyeWidth == 0)
  && (match l.ref with | none => true | some r => r.level ≤ 31 && r.width ≤ 32)
  && l.trim.natAbs ≤ 15 && l.trim.natAbs ≤ trimLimit

/-- A list of values, if every one is there. -/
def allSome {α : Type} : List (Option α) → Option (List α)
  | [] => some []
  | none :: _ => none
  | some a :: xs => (allSome xs).map (a :: ·)

/-- The lanes a buffer carries; none where check 4 of R176 refuses one. -/
def bufferLaneList (m : Memory) (trimLimit : Nat) : Option (List LaneEntry) :=
  allSome ((List.range (bufferLanes m)).map fun i =>
    (bufferLane m i).filter (preloadLaneOk trimLimit))

/-! ### Directory and queue lists (R192) -/

/-- A slot's directory entry, 4 bytes (R183, R192). -/
def Slot.entry : Slot → List Byte
  | .free => [0, 0, 0, 0]
  | .reserved k n => [1, keyByte k, toByte n, 0]
  | .occupied r =>
    [toByte (2 + 4 * r.cond.code + 16 * bit r.pinned + 32 * bit r.holdOff
       + 64 * bit r.applied.isSome), keyByte r.key, toByte r.laneCount, 0]

/-- A job's entry of the queue list, 4 bytes; `st` is 0 QUEUED, 1 on E0, 2 on E1 (R192). -/
def Job.entry (j : Job) (st : Nat) : List Byte :=
  [keyByte j.key,
   toByte (j.origin.code + 4 * bit (j.urgency == .urgent) + 8 * j.attempts), toByte st, 0]

end Sys2Proof.Machine
end

