-- ==== Sys2Proof/Machine/Sweep.lean ====
section
/-! DEFINITION. Sweeps as computation on a job context: stimulus words, trial directives, scoring,
eye finding and evaluation (chapter 6). -/

namespace Sys2Proof.Machine

/-! ### Stimulus words (R127) -/

/-- Word `n mod 8` of a Pattern Table. -/
def patternAt (t : Table 8 Word) (n : Nat) : Word := t.get ⟨n % 8, Nat.mod_lt n (by decide)⟩

/-- The base index of trial `k` (R127). -/
def baseIndex (p : Profile) (k : Nat) : Nat := if p.advance then (p.baseWord + k) % 8 else p.baseWord

/-- The stimulus word of lane `i` in trial `k` (R127). -/
def stimulus (t : Table 8 Word) (p : Profile) (k i : Nat) : Word :=
  match p.arrangement with
  | .common => patternAt t (baseIndex p k)
  | .rotate => patternAt t (baseIndex p k + i)
  | .alternate =>
    if i % 2 = 0 then patternAt t (baseIndex p k) else ~~~(patternAt t (baseIndex p k))

/-! ### Eyes (R131, R132, R134) -/

/-- The longest run of `true`, ties to the lowest start, as (start, length): `pos` is the present
position, (`cs`, `cl`) the run in progress, (`bs`, `bl`) the longest so far. -/
def runScan : List Bool → (pos cs cl bs bl : Nat) → Nat × Nat
  | [], _, _, _, bs, bl => (bs, bl)
  | true :: rest, pos, cs, cl, bs, bl =>
    let start := if cl = 0 then pos else cs
    if bl < cl + 1 then runScan rest (pos + 1) start (cl + 1) start (cl + 1)
    else runScan rest (pos + 1) start (cl + 1) bs bl
  | false :: rest, pos, _, _, bs, bl => runScan rest (pos + 1) 0 0 bs bl

/-- The longest run of passing settings (R131): start and length, length 0 where none passes. -/
def longestRun (passes : List Bool) : Nat × Nat := runScan passes 0 0 0 0 0

/-- The condition an eye width gives (R132, R134). -/
def widthCond (width minimum good : Nat) : LaneCond :=
  if width < minimum then .failed else if width < good then .marginal else .good

/-- The eye of a pass map, judged by a minimum and a good width. -/
def findEye (minimum good : Nat) (m : List (Option Bool)) : Eye :=
  let run := longestRun (m.map fun x => x == some true)
  ⟨run.1, run.2, widthCond run.2 minimum good⟩

/-- The centre of an eye (R131). -/
def Eye.centre (e : Eye) : Nat := e.start + (e.width - 1) / 2

/-- The delay evaluation of every lane (R131, R132). -/
def Ctx.delayEyes (c : Ctx) : List Eye := c.delayMap.map (findEye c.profile.minWidth c.profile.goodWidth)

/-- The reference evaluation (R134): a lane the delay sweep failed has no passing level. -/
def Ctx.refEyes (c : Ctx) : List Eye := c.refMap.map (findEye c.profile.minRefWidth c.profile.goodRefWidth)

/-! ### Trials (R129, R134) -/

/-- The eye of no setting, for a lane not evaluated. -/
def Eye.nothing : Eye := ⟨0, 0, .failed⟩

/-- The delay eye of lane `i`. -/
def Ctx.delayEyeOf (c : Ctx) (i : Nat) : Eye := c.delayEye.getD i .nothing

/-- The reference eye of lane `i`. -/
def Ctx.refEyeOf (c : Ctx) (i : Nat) : Eye := c.refEye.getD i .nothing

/-- The reference level held in a lane through the delay sweep (R129). -/
def Ctx.delayRef (c : Ctx) (i : Nat) : Nat :=
  match c.prior with
  | none => c.profile.defaultRef
  | some prior => ((prior[i]?).bind PriorLane.ref).getD c.profile.defaultRef

/-- What trial `index` of the present phase directs on lane `i` (R129, R134). -/
def Ctx.trialLane (c : Ctx) (i : Nat) : TrialLane :=
  if c.phase = .refSweep then
    { tap := if (c.delayEyeOf i).cond = .failed then 0 else (c.delayEyeOf i).centre
      ref := some c.index
      word := stimulus c.patterns c.profile c.index i }
  else
    { tap := c.index
      ref := if c.profile.refEnable then some (c.delayRef i) else none
      word := stimulus c.patterns c.profile c.index i }

/-- The BEGIN or TRIAL the context stands at, under a trial id (R128, R129, R134). -/
def Ctx.directive (c : Ctx) (id : Byte) : OutFrame :=
  if c.phase = .announce then .beginTraining c.job.key.cls id
  else .trial id (if c.phase = .refSweep then .reference else .delay)
    ((List.range c.profile.laneCount).map c.trialLane)

/-- Whether the context is in one of the two sweeps. -/
def Ctx.sweeping (c : Ctx) : Bool := c.phase = .delaySweep ∨ c.phase = .refSweep

/-! ### Scoring (R130) -/

/-- One lane's pass map with setting `k` scored. -/
def scoreLane (k : Nat) (pass : Bool) (m : List (Option Bool)) : List (Option Bool) := m.set k (some pass)

/-- The outstanding trial scored from its error counts (R130, R134). -/
def Ctx.score (c : Ctx) (counts : List Nat) : Ctx :=
  let passed (i : Nat) : Bool := counts.getD i 256 ≤ c.profile.passThreshold
  if c.phase = .refSweep then
    { c with refMap := c.refMap.mapIdx fun i m =>
        scoreLane c.index ((c.delayEyeOf i).cond != .failed && passed i) m }
  else
    { c with delayMap := c.delayMap.mapIdx fun i m => scoreLane c.index (passed i) m }

/-- The last trial index of the present phase (R129, R134). -/
def Ctx.lastIndex (c : Ctx) : Nat := if c.phase = .refSweep then 31 else 63

/-! ### Evaluation (R133, R135) -/

/-- A lane's condition in the result (R135). -/
def laneResult (refEnable : Bool) (delay reference : LaneCond) : LaneCond :=
  match delay, refEnable, reference with
  | .failed, _, _ => .failed
  | d, false, _ => d
  | _, true, .failed => .failed
  | .good, true, .good => .good
  | _, true, _ => .marginal

/-- The result of lane `i`. -/
def Ctx.laneResultOf (c : Ctx) (i : Nat) : LaneCond :=
  laneResult c.profile.refEnable (c.delayEyeOf i).cond (c.refEyeOf i).cond

/-- The results of all lanes, in lane order. -/
def Ctx.results (c : Ctx) : List LaneCond := (List.range c.profile.laneCount).map c.laneResultOf

/-- EVALUATE: NO_EYE where every lane is FAILED, otherwise the commit (R135). -/
def Ctx.evaluate (c : Ctx) : Ctx :=
  if c.results.all (· == .failed) then { c with phase := .evaluate, request := some .noEye }
  else { c with phase := .commit, request := some .commit }

/-- The phase after a delay evaluation (R133). -/
def Ctx.endDelaySweep (c : Ctx) : Ctx :=
  let c := { c with delayEye := c.delayEyes }
  if c.profile.refEnable && c.delayEye.any (fun e => e.cond != .failed) then
    { c with phase := .refSweep, index := 0 }
  else c.evaluate

/-- The phase after a reference evaluation (R134). -/
def Ctx.endRefSweep (c : Ctx) : Ctx := { c with refEye := c.refEyes }.evaluate

/-- A RESULT taken: the trial is scored and the sweep advances (R130). -/
def Ctx.takeResult (c : Ctx) (counts : List Nat) : Ctx :=
  let c := { c.score counts with outstanding := none, timer := none }
  if c.index < c.lastIndex then { c with index := c.index + 1 }
  else if c.phase = .refSweep then c.endRefSweep
  else c.endDelaySweep

/-- A READY taken: DELAY_SWEEP begins at trial 0 (R128). -/
def Ctx.takeReady (c : Ctx) : Ctx :=
  { c with outstanding := none, timer := none, phase := .delaySweep, index := 0 }

/-- Pass maps with every entry not yet tried (R128). -/
def Ctx.clearMaps (c : Ctx) : Ctx :=
  { c with
    delayMap := List.replicate c.profile.laneCount (List.replicate 64 none)
    refMap := List.replicate c.profile.laneCount (List.replicate 32 none)
    delayEye := []
    refEye := []
    index := 0 }

/-! ### The lane list a commit writes (R136) -/

/-- Lane `i` of the lane list; `old` are the record's present lanes, if there is a record. -/
def Ctx.commitLane (c : Ctx) (old : Option (List LaneEntry)) (i : Nat) : LaneEntry :=
  let cond := c.laneResultOf i
  let oldLane := old.bind fun ls => ls[i]?
  let ref (level width : Nat) : Option RefFields :=
    if c.profile.refEnable then some ⟨level, width⟩ else none
  match cond, oldLane with
  | .failed, some l =>
    { tap := l.tap, eyeWidth := 0, cond := .failed, trim := 0
      ref := ref ((l.ref.map RefFields.level).getD c.profile.defaultRef) 0 }
  | .failed, none =>
    { tap := 0, eyeWidth := 0, cond := .failed, trim := 0, ref := ref c.profile.defaultRef 0 }
  | cond, _ =>
    { tap := (c.delayEyeOf i).centre, eyeWidth := (c.delayEyeOf i).width, cond, trim := 0
      ref := ref (c.refEyeOf i).centre (c.refEyeOf i).width }

/-- The lane list a commit writes, in lane order (R136). -/
def Ctx.commitLanes (c : Ctx) (old : Option (List LaneEntry)) : List LaneEntry :=
  (List.range c.profile.laneCount).map (c.commitLane old)

/-- COMMITTED, or PARTIAL if any lane is FAILED (R135). -/
def Ctx.outcome (c : Ctx) : JobOutcome :=
  if c.results.any (· == .failed) then .part else .committed

end Sys2Proof.Machine
end

