-- ==== Sys2Proof/Machine/Ops.lean ====
section
/-! DEFINITION. The operations the commands share: access to the tables, time, the output list,
the store, conditions, the training queue, and the ways a job leaves its engine. -/

namespace Sys2Proof.Machine

/-! ### Access -/

/-- Port `p`. -/
def State.port (s : State) (p : PortId) : Port := s.ports.get p

/-- Port `p` changed by `f`. -/
def State.modPort (s : State) (p : PortId) (f : Port → Port) : State :=
  { s with ports := s.ports.set p (f (s.port p)) }

/-- Slot `i`. -/
def State.slot (s : State) (i : SlotId) : Slot := s.slots.get i

/-- Slot `i` replaced. -/
def State.setSlot (s : State) (i : SlotId) (x : Slot) : State := { s with slots := s.slots.set i x }

/-- Engine `e`. -/
def State.engine (s : State) (e : EngineId) : Engine := s.engines.get e

/-- Engine `e` changed by `f`. -/
def State.modEngine (s : State) (e : EngineId) (f : Engine → Engine) : State :=
  { s with engines := s.engines.set e (f (s.engine e)) }

/-- The context of engine `e` replaced. -/
def State.setCtx (s : State) (e : EngineId) (c : Option Ctx) : State :=
  s.modEngine e fun x => { x with ctx := c }

/-- The profile of a key (R158). -/
def State.profile (s : State) (k : Key) : Profile := (s.profiles.get k.port).get k.cls

/-- The parameters of a class (R40). -/
def State.budget (s : State) (c : ClassId) : Budget := s.budgets.get c

/-- Class `c` is enabled on port `p`: its lane count is 1 to 16 (R81, R158). -/
def State.classEnabled (s : State) (k : Key) : Bool :=
  1 ≤ (s.profile k).laneCount && (s.profile k).laneCount ≤ Config.lanesMax

/-! ### Time (log 1, log 3) -/

/-- `n` milliseconds in REFCLK periods. -/
def ms (n : Nat) : Nat := n * Config.cyclesPerMs

/-- The moment a timer expires. -/
def Timer.due (t : Timer) : Nat := t.since + t.period

/-- The moment `m` has come: the time is at least `m`. -/
def State.reach (s : State) (m : Nat) : State := { s with now := max s.now m }

/-- A start decision is to follow (R115). -/
def State.decide (s : State) : State := { s with decision := true }

/-- `n` more rescans are to follow (R110). -/
def State.rescanAfter (s : State) (n : Nat) : State := { s with rescans := s.rescans + n }

/-! ### The output list (R72 to R75) -/

/-- The number of frames on the output list: the one being sent and the pending ones. -/
def Port.outLen (x : Port) : Nat := x.tx.toList.length + x.pend.length

/-- A frame that belongs to no engine's run. -/
def plainEntry (f : OutFrame) : OutEntry := ⟨f, none⟩

/-- Whether a frame is a BEGIN or TRIAL. -/
def OutFrame.isDirective : OutFrame → Bool
  | .beginTraining _ _ => true
  | .trial _ _ _ => true
  | .welcome _ _ | .answer _ _ _ _ | .record _ _ | .notice _ _ _ | .endTraining _ _ _ | .nak
  | .hold => false

/-- The pending frames, those held back last (R72, log 10). -/
def Port.pending (x : Port) : List OutEntry := x.pend ++ x.heldBack.map HeldFrame.entry

/-- The place on the output list of the pending frame nearest the head, other than a BEGIN or TRIAL; 0
where there is none (R72). -/
def Port.firstPlain (x : Port) : Nat :=
  match x.pend.findIdx? fun e => !e.frame.isDirective with
  | some i => x.tx.toList.length + i + 1
  | none => 0

/-- A frame is placed at the tail of the output list, or held back while the list holds 24 frames or
an earlier frame is held back (R72, log 10). -/
def Port.place (e : OutEntry) (x : Port) : Port :=
  if x.outLen < Config.listDepth then
    if x.heldBack = [] then { x with pend := x.pend ++ [e] }
    else { x with heldBack := x.heldBack ++ [⟨e, 0⟩] }
  else { x with heldBack := x.heldBack ++ [⟨e, x.firstPlain⟩] }

/-- The oldest held-back frame is placed at the tail once the frame it waits for has been removed and
there is room (R72, DEFERRED_FRAME_PLACEMENT). -/
def Port.placeHeld (x : Port) : Port :=
  match x.heldBack with
  | [] => x
  | h :: rest =>
    if x.outLen < Config.listDepth ∧ h.waits = 0 then
      { x with pend := x.pend ++ [h.entry], heldBack := rest }
    else x

/-- The place `w` of the output list once the pending frames that `drop` names are removed; 0 where the
frame at that place is one of them. -/
def Port.placeAfter (drop : OutFrame → Bool) (x : Port) (w : Nat) : Nat :=
  let begun := x.tx.toList.length
  if w ≤ begun then w
  else if (x.pend[w - begun - 1]?).any fun e => drop e.frame then 0
  else begun + (x.pend.take (w - begun)).countP fun e => !drop e.frame

/-- Pending frames that `drop` names are removed (R72, R73). -/
def Port.removePending (drop : OutFrame → Bool) (x : Port) : Port :=
  { x with
    pend := x.pend.filter fun e => !drop e.frame
    heldBack := (x.heldBack.filter fun h => !drop h.entry.frame).map fun h =>
      { h with waits := x.placeAfter drop h.waits } }

/-- Every pending frame is removed; a frame whose transmission has begun is completed (R62, R64). -/
def Port.clearPending (x : Port) : Port :=
  { x with pend := [], heldBack := [] }

/-- The pending BEGIN and TRIAL frames are withdrawn, and the completion report of one whose
transmission has begun reaches no job (R72, R141 step 2). -/
def Port.withdraw (x : Port) : Port :=
  { x.removePending OutFrame.isDirective with tx := x.tx.map fun e => { e with owner := none } }

/-- The head of an idle line's list begins transmission (log 9). -/
def Port.startTx (x : Port) : Port :=
  match x.tx, x.finishing, x.pend with
  | none, none, e :: rest => { x with tx := some e, pend := rest }
  | _, _, _ => x

/-- Whether a frame is a NOTICE for a class. -/
def OutFrame.isNoticeFor (c : ClassId) : OutFrame → Bool
  | .notice c' _ _ => c' == c
  | .welcome _ _ | .answer _ _ _ _ | .record _ _ | .beginTraining _ _ | .trial _ _ _
  | .endTraining _ _ _ | .nak | .hold => false

/-- A NOTICE is placed at the tail; a pending one for the key is removed (R73). -/
def Port.placeNotice (c : ClassId) (kind : NoticeKind) (gen : Nat) (x : Port) : Port :=
  (x.removePending (OutFrame.isNoticeFor c)).place (plainEntry (.notice c kind gen))

/-- Whether a NAK is pending (R74). -/
def Port.nakPending (x : Port) : Bool := x.pending.any fun e => e.frame == .nak

/-- A NAK is queued unless one is pending (R74). -/
def Port.placeNak (x : Port) : Port := if x.nakPending then x else x.place (plainEntry .nak)

/-- A frame is placed on port `p`'s output list. -/
def State.emit (s : State) (p : PortId) (f : OutFrame) : State :=
  s.modPort p (Port.place (plainEntry f))

/-- An ANSWER is placed (R80 step 5). -/
def State.answer (s : State) (p : PortId) (tag : Byte) (st : Status) (gen : Option Nat)
    (flags : Option JobFlags) : State :=
  s.emit p (.answer tag st gen flags)

/-- An answer given at once, dropped when the list holds 16 frames or more (R75). -/
def State.answerAtOnce (s : State) (p : PortId) (tag : Byte) (st : Status) : State :=
  if (s.port p).outLen < Config.answerThreshold then s.answer p tag st none none else s

/-- WELCOME with the classes as the port's profiles stand (R56, R58). -/
def State.welcome (s : State) (p : PortId) (tag : Byte) : State :=
  s.emit p (.welcome tag ((s.profiles.get p).rows.map fun x => (x.laneCount, x.refEnable)))

/-- END is placed, and latched in the port's last-outcome register (R139). -/
def State.placeEnd (s : State) (k : Key) (o : JobOutcome) (gen : Option Nat) : State :=
  (s.emit k.port (.endTraining k.cls o gen)).modPort k.port fun x =>
    { x with lastOutcome := some (o, k.cls) }

/-! ### The store (R1 to R3, R12, R15 to R18) -/

/-- The key a slot holds. -/
def Slot.key? : Slot → Option Key
  | .free => none
  | .reserved k _ => some k
  | .occupied r => some r.key

/-- The lane entries a slot holds. -/
def Slot.lanes : Slot → Nat
  | .free => 0
  | .reserved _ n => n
  | .occupied r => r.laneCount

/-- The record of a slot. -/
def Slot.record? : Slot → Option Record
  | .occupied r => some r
  | .free | .reserved _ _ => none

/-- The slot with its record, if it has one, changed by `f`. -/
def Slot.mapRecord (f : Record → Record) : Slot → Slot
  | .occupied r => .occupied (f r)
  | .free => .free
  | .reserved k n => .reserved k n

/-- The directory: the slot that holds a key (R2). -/
def State.slotOf (s : State) (k : Key) : Option SlotId :=
  (List.finRange 24).find? fun i => (s.slot i).key? == some k

/-- The record of a key, with its slot (R2). -/
def State.recordOf (s : State) (k : Key) : Option (SlotId × Record) :=
  (s.slotOf k).bind fun i => (s.slot i).record?.map fun r => (i, r)

/-- A slot returns to FREE and its lane entries to the pool (R3). -/
def State.releaseSlot (s : State) (i : SlotId) : State :=
  { s.setSlot i .free with free := s.free + (s.slot i).lanes }

/-- A FREE slot is taken for a key with `n` lane entries (R3). -/
def State.takeSlot (s : State) (i : SlotId) (x : Slot) (n : Nat) : State :=
  { s.setSlot i x with free := s.free - n }

/-- The lowest-numbered FREE slot (R1). -/
def State.lowestFree (s : State) : Option SlotId :=
  (List.finRange 24).find? fun i => s.slot i == .free

/-- The number of RESERVED or OCCUPIED slots (R1). -/
def State.slotsUsed (s : State) : Nat := (s.slots.rows.filter fun x => x != .free).length

/-- The OCCUPIED records, in slot order. -/
def State.records (s : State) : List Record := s.slots.rows.filterMap Slot.record?

/-- Renumbering: stamps 1 to n in the order of the present ones, and the counter at n (R12). -/
def State.renumber (s : State) : State :=
  let rank (r : Record) : Nat := 1 + (s.records.filter fun x => x.stamp < r.stamp).length
  { s with slots := s.slots.map (Slot.mapRecord fun r => { r with stamp := rank r })
           stamp := s.records.length }

/-- The counter is advanced for an assignment, after renumbering where it stands at its maximum;
the new value is the stamp to write (R12). -/
def State.advanceStamp (s : State) : State :=
  let s := if s.stamp = Config.stampMax then s.renumber else s
  { s with stamp := s.stamp + 1 }

/-- The record of slot `i` is assigned a new last-use stamp (R12). -/
def State.touch (s : State) (i : SlotId) : State :=
  let s := s.advanceStamp
  s.setSlot i ((s.slot i).mapRecord fun r => { r with stamp := s.stamp })

/-- A generation advanced by 1, from 65535 to 1 (R7). -/
def nextGen (g : Nat) : Nat := if g = Config.genMax then 1 else g + 1

/-- The generation advances; the wrap clears the applied generation (R7). -/
def Record.advance (r : Record) : Record :=
  { r with gen := nextGen r.gen, applied := if r.gen = Config.genMax then none else r.applied }

/-! ### Jobs as seen from elsewhere (R102, R103) -/

/-- The engine, with its context, whose running job satisfies `q`. -/
def State.runningWhere (s : State) (q : Ctx → Bool) : Option (EngineId × Ctx) :=
  (List.finRange 2).findSome? fun e => ((s.engine e).ctx.filter q).map fun c => (e, c)

/-- The engine running a job for a key. -/
def State.runningKey (s : State) (k : Key) : Option (EngineId × Ctx) :=
  s.runningWhere fun c => c.job.key == k

/-- The engine running a job of a port. -/
def State.runningPort (s : State) (p : PortId) : Option (EngineId × Ctx) :=
  s.runningWhere fun c => c.job.key.port == p

/-- A job for the key is QUEUED. -/
def State.jobQueued (s : State) (k : Key) : Bool := s.queued.any fun j => j.key == k

/-- A job for the key is RUNNING. -/
def State.jobRunning (s : State) (k : Key) : Bool := (s.runningKey k).isSome

/-- A job for the key is QUEUED or RUNNING. -/
def State.hasJob (s : State) (k : Key) : Bool := s.jobQueued k || s.jobRunning k

/-- The job flags of a key (R82). -/
def State.flags (s : State) (k : Key) : JobFlags := ⟨s.jobQueued k, s.jobRunning k⟩

/-- The number of engines running a job. -/
def State.enginesBusy (s : State) : Nat := (s.engines.rows.filter fun x => x.ctx.isSome).length

/-- The training queue entries held (R103). -/
def State.entriesHeld (s : State) : Nat := s.queued.length + s.enginesBusy

/-- A snapshot of a record (R6). -/
def State.snapshot (s : State) (r : Record) : Snapshot :=
  { key := r.key, cond := r.cond, gen := r.gen, applied := r.applied, origin := r.origin
    trained := r.trained, age := r.age, pinned := r.pinned, holdOff := r.holdOff
    jobQueued := s.jobQueued r.key, jobRunning := s.jobRunning r.key, lanes := r.lanes }

/-! ### Allocation and eviction (R15 to R18) -/

/-- The rank of a condition in the candidate order (R16). -/
def Condition.rank : Condition → Nat
  | .stale => 0
  | .dormant => 1
  | .current => 2

/-- Whether a record stands before another in the candidate order (R16). -/
def Record.before (a b : Record) : Bool :=
  a.cond.rank < b.cond.rank || (a.cond.rank == b.cond.rank && a.stamp < b.stamp)

/-- Whether a record may be evicted (R16). -/
def State.evictable (s : State) (r : Record) : Bool :=
  !r.pinned && r.applied.isNone && !s.hasJob r.key

/-- A candidate put in its place in the order. -/
def insertCandidate (x : SlotId × Record) : List (SlotId × Record) → List (SlotId × Record)
  | [] => [x]
  | y :: ys => if x.2.before y.2 then x :: y :: ys else y :: insertCandidate x ys

/-- The candidates for eviction, in order (R16). -/
def State.candidates (s : State) : List (SlotId × Record) :=
  ((List.finRange 24).filterMap fun i =>
    ((s.slot i).record?.filter s.evictable).map fun r => (i, r)).foldr insertCandidate []

/-- The walk of R17 from `slots` free slots and `entries` free entries: the candidates up to the
first point where a slot and `need` entries would be free; none where there is no such point. -/
def evictionSet (need : Nat) : (slots entries : Nat) → List (SlotId × Record) → Option (List SlotId)
  | _, _, [] => none
  | slots, entries, c :: cs =>
    if 1 ≤ slots + 1 ∧ need ≤ entries + c.2.laneCount then some [c.1]
    else (evictionSet need (slots + 1) (entries + c.2.laneCount) cs).map (c.1 :: ·)

/-- A record is evicted (R18). -/
def State.evict (s : State) (i : SlotId) : State := (s.releaseSlot i).raise .evicted

/-- Room for a slot and `n` lane entries: the slot to take, in the state after any eviction; none
where the allocation fails (R15). -/
def State.allocate (s : State) (n : Nat) : Option (SlotId × State) :=
  let evicting := (evictionSet n (24 - s.slotsUsed) s.free s.candidates).bind fun set =>
    (set.foldl State.evict s).lowestFree.map fun i => (i, set.foldl State.evict s)
  match s.lowestFree with
  | some i => if n ≤ s.free then some (i, s) else evicting
  | none => evicting

/-- The reservation of a key, if it holds one, is released (R20). -/
def State.releaseReservation (s : State) (k : Key) : State :=
  match s.slotOf k with
  | none => s
  | some i =>
    match s.slot i with
    | .reserved _ _ => s.releaseSlot i
    | .free | .occupied _ => s

/-! ### Conditions (chapter 2) -/

/-- Drift within the budget; equal is within (R34, R35). -/
def driftOk (b : Budget) (v trained : Int) : Bool := (v - trained).natAbs ≤ b.drift

/-- Age below the limit, or no limit (R34). -/
def ageOk (b : Budget) (age : Nat) : Bool := b.ageLimit == 0 || age < b.ageLimit

/-- Every trim offset within the limit (R34). -/
def trimOk (b : Budget) (lanes : List LaneEntry) : Bool := lanes.all fun l => l.trim.natAbs ≤ b.trimLimit

/-- The three budgets are met at temperature `v` (R35, R39, R41). -/
def Record.fit (b : Budget) (v : Int) (r : Record) : Bool :=
  driftOk b v r.trained && ageOk b r.age && trimOk b r.lanes

/-- A NOTICE for a record, where it has an applied generation and its port is ONLINE (R100). -/
def State.notify (s : State) (r : Record) (kind : NoticeKind) (gen : Nat) : State :=
  if r.applied.isSome ∧ (s.port r.key.port).state = .online then
    s.modPort r.key.port (Port.placeNotice r.key.cls kind gen)
  else s

/-- An AUTO request, or STALE_SEEN, or neither, on a transition into STALE (R45). -/
def State.staleRequest (s : State) (r : Record) : State :=
  if !(s.port r.key.port).autotrain ∨ (s.port r.key.port).state = .offline then s.raise .staleSeen
  else if r.holdOff then s
  else { s with autoReqs := s.autoReqs ++ [r.key] }

/-- The effects of a transition into STALE of a record, given as it stands after the operation
(R43 to R45). -/
def State.turnedStale (s : State) (r : Record) : State := (s.notify r .stale r.gen).staleRequest r

/-- Slot `i`'s record takes a condition, with the effects of a transition into STALE if it is one
(R14, R43). -/
def State.setCondition (s : State) (i : SlotId) (c : Condition) : State :=
  match s.slot i with
  | .occupied r =>
    let r' := { r with cond := c }
    let t := s.setSlot i (.occupied r')
    if c = .stale ∧ r.cond ≠ .stale then t.turnedStale r' else t
  | .free | .reserved _ _ => s

/-- An evaluation of every record, in slot order (R43): `f` gives each record's condition. -/
def State.evaluate (s : State) (f : Record → Condition) : State :=
  (List.finRange 24).foldl (fun t i =>
    match t.slot i with
    | .occupied r => t.setCondition i (f r)
    | .free | .reserved _ _ => t) s

/-- The condition a TEMP of `v` gives a record (R35). -/
def Record.onTemp (b : Budget) (v : Int) (r : Record) : Condition :=
  match r.cond with
  | .current => if driftOk b v r.trained then .current else .stale
  | .dormant => if r.fit b v then .current else .stale
  | .stale => .stale

/-- The TEMP evaluation of port `p`'s records (R35). -/
def State.evaluateTemp (s : State) (p : PortId) (v : Int) : State :=
  s.evaluate fun r => if r.key.port = p then r.onTemp (s.budget r.key.cls) v else r.cond

/-- The condition a budget write leaves a record of its class (R41). -/
def Record.onBudget (b : Budget) (temp : TempState) (r : Record) : Condition :=
  match r.cond, temp with
  | .current, .fresh v _ => if r.fit b v then .current else .stale
  | .current, .unknown => .current
  | .dormant, _ => .dormant
  | .stale, _ => .stale

/-- The re-evaluation of a class after a budget write (R41). -/
def State.evaluateBudget (s : State) (c : ClassId) : State :=
  s.evaluate fun r =>
    if r.key.cls = c then r.onBudget (s.budget c) (s.port r.key.port).temp else r.cond

/-- The condition the preload evaluation gives (R39). -/
def preloadCondition (b : Budget) (temp : TempState) (r : Record) : Condition :=
  match temp with
  | .fresh v _ => if r.fit b v then .current else .stale
  | .unknown => if ageOk b r.age then .dormant else .stale

/-- A record of port `p` when the port loses its temperature, its applied generation cleared where
the event clears it (R9, R32, R33). -/
def Record.onTempLost (p : PortId) (clearApplied : Bool) (r : Record) : Record :=
  if r.key.port = p then
    { r with cond := if r.cond = .current then .dormant else r.cond
             applied := if clearApplied then none else r.applied }
  else r

/-- Port `p` becomes UNKNOWN and its CURRENT records DORMANT (R32, R33; R9 for the clearing). -/
def State.loseTemp (s : State) (p : PortId) (clearApplied : Bool) : State :=
  { s.modPort p (fun x => { x with temp := .unknown }) with
    slots := s.slots.map (Slot.mapRecord (Record.onTempLost p clearApplied)) }

/-! ### The training queue (R103 to R108) -/

/-- Whether a job is URGENT. -/
def Job.isUrgent (j : Job) : Bool := j.urgency == .urgent

/-- A job joins the tail of its urgency group (R103). -/
def joinTail (j : Job) (q : List Job) : List Job :=
  let urgent := q.filter Job.isUrgent
  let routine := q.filter fun x => !x.isUrgent
  if j.isUrgent then urgent ++ j :: routine else urgent ++ routine ++ [j]

/-- A job joins the front of its urgency group (R103, R107). -/
def joinFront (j : Job) (q : List Job) : List Job :=
  let urgent := q.filter Job.isUrgent
  let routine := q.filter fun x => !x.isUrgent
  if j.isUrgent then j :: urgent ++ routine else urgent ++ j :: routine

/-- The queue without the job of a key. -/
def withoutKey (k : Key) (q : List Job) : List Job := q.filter fun x => x.key != k

/-- The origin a merge leaves (R106). -/
def mergeOrigin (old new : JobOrigin) : JobOrigin := if old = .auto then new else old

/-- An enqueue, with its result (R104, R106). -/
def State.enqueue (s : State) (k : Key) (o : JobOrigin) (u : Urgency) : State × Status :=
  if s.jobRunning k then (s.decide, .alreadyRunning)
  else
    match s.queued.find? fun j => j.key == k with
    | some j =>
      let j' := { j with origin := mergeOrigin j.origin o }
      if u = .urgent ∧ j.urgency = .routine then
        ({ s.decide with
           queued := joinTail { j' with urgency := .urgent } (withoutKey k s.queued) }, .raised)
      else
        ({ s.decide with queued := s.queued.map fun x => if x.key = k then j' else x },
          .alreadyQueued)
    | none =>
      if Config.queueEntries ≤ s.entriesHeld then (s.decide, .trainingFull)
      else ({ s.decide with queued := joinTail ⟨k, o, u, 0⟩ s.queued }, .queued)

/-- An AUTO enqueue: QUEUE_FULL is raised where it is refused TRAINING_FULL (R104). -/
def State.enqueueAuto (s : State) (k : Key) : State :=
  let r := s.enqueue k .auto .routine
  if r.2 = .trainingFull then r.1.raise .queueFull else r.1

/-- A re-queue: the job joins the front of its group, and a start decision follows (R107). -/
def State.requeue (s : State) (j : Job) : State :=
  { s.decide with queued := joinFront j s.queued }

/-! ### How a job leaves its engine (R118, R141, R142) -/

/-- Steps 1 to 4 of R141: the run of the job on engine `e` ends, its pending frames are withdrawn,
its store request goes with the context, and its reservation is released; the engine is IDLE. -/
def State.endRun (s : State) (e : EngineId) (k : Key) : State :=
  ((s.modPort k.port Port.withdraw).releaseReservation k).setCtx e none

/-- An abandonment: END DEFERRED where the cause sends it, and the re-queue (R141). -/
def State.abandon (s : State) (e : EngineId) (c : Ctx) (deferred : Bool) (attempts : Nat) : State :=
  let t := s.endRun e c.job.key
  let t := if deferred then t.placeEnd c.job.key .deferred none else t
  t.requeue { c.job with attempts := attempts }

/-- The job running for port `p`, if there is one, is abandoned with its attempts unchanged (R150,
R151). -/
def State.abandonPort (s : State) (p : PortId) (deferred : Bool) : State :=
  match s.runningPort p with
  | some (e, c) => s.abandon e c deferred c.job.attempts
  | none => s

/-- A job ends with an outcome in an END; its entry is freed and a rescan follows (R118). -/
def State.endJob (s : State) (e : EngineId) (k : Key) (o : JobOutcome) (gen : Option Nat) : State :=
  ((s.endRun e k).placeEnd k o gen).rescanAfter 1

/-- Training for a key is removed: a QUEUED job without END, a RUNNING one with END CANCELLED
(R25, R108, R119, R142). -/
def State.cancelJobs (s : State) (k : Key) : State :=
  let t := { s with queued := withoutKey k s.queued }.rescanAfter
    (s.queued.length - (withoutKey k s.queued).length)
  match t.runningKey k with
  | some (e, c) => t.endJob e c.job.key .cancelled none
  | none => t

/-- Every job of a disabled port is removed, without END (R66, R108, R142, R152). -/
def State.removePortJobs (s : State) (p : PortId) : State :=
  let kept := s.queued.filter fun j => j.key.port != p
  let t := { s with queued := kept }.rescanAfter (s.queued.length - kept.length)
  match t.runningPort p with
  | some (e, c) => (t.endRun e c.job.key).rescanAfter 1
  | none => t

/-! ### Placing BEGIN and TRIAL (R124, R125) -/

/-- Engine `e`, with context `c`, places the BEGIN or TRIAL its context stands at, under the next
trial id (R124). -/
def State.placeDirective (s : State) (e : EngineId) (c : Ctx) (resend : Bool) : State :=
  let id := (s.engine e).nextId
  (s.modEngine e fun x =>
    { x with
      nextId := id + 1
      ctx := some { c with outstanding := some id, leaving := some id, timer := none, retry := resend } }).modPort
    c.job.key.port (Port.place ⟨c.directive id, some e⟩)

/-- Engine `e` goes on with context `c`: the next TRIAL is placed once the previous frame has left
and no response is awaited (R125). -/
def State.proceed (s : State) (e : EngineId) (c : Ctx) : State :=
  if c.sweeping ∧ c.outstanding = none ∧ c.leaving = none then s.placeDirective e c false
  else s.setCtx e (some c)

/-! ### Start records (R112 to R114) -/

/-- The moment a spacing is reached after the last start, if it lies ahead (R113, R114). -/
def spacingMoment (now : Nat) (last : Option Nat) (spacing : Nat) : Option Nat :=
  match last with
  | some t => if now < t + ms spacing then some (t + ms spacing) else none
  | none => none

/-- A spacing test: no start recorded, or at least the spacing since the last one (R112). -/
def spacingMet (now : Nat) (last : Option Nat) (spacing : Nat) : Bool :=
  match last with
  | some t => t + ms spacing ≤ now
  | none => true

/-- The group of a port (R112). -/
def groupOf (p : PortId) : GroupId := ⟨p.val / 2, by omega⟩

/-! ### Port events (R57 to R66) -/

/-- A port's entry into ONLINE: a rescan and a start decision follow (R58, R61, R64, R110). -/
def State.enteredOnline (s : State) : State := (s.rescanAfter 1).decide

/-- Port `p`'s receiver hunts again (R51). -/
def State.hunt (s : State) (p : PortId) : State := s.modPort p fun x => { x with rx := .hunting }

/-- Entry into SYNCING of port `p` from OFFLINE or HELD (R57, R63). A frame in reception stays in
reception: the state in which it is completed decides (R51). -/
def State.enterSyncing (s : State) (p : PortId) : State :=
  ((s.modPort p fun x => { x with state := .syncing, bad := 0 }).loseTemp p false).decide

/-- Entry into HELD of port `p` (R62). -/
def State.enterHeld (s : State) (p : PortId) : State :=
  let t := (s.modPort p fun x =>
    { x.clearPending with state := .held, rx := .hunting, bad := 0, reqs := [] }).emit p .hold
  (((t.raise .portHeld).loseTemp p false).abandonPort p false).decide

/-- Steps 1, 2, 4, 5 and 6 of a port restart (R64), with `reply` placed as step 3, and the state
it leaves. -/
def State.restart (s : State) (p : PortId) (next : PortState) (reply : State → State) : State :=
  let t := s.modPort p fun x => { x.clearPending with reqs := [], bad := 0 }
  let t := ((reply t).loseTemp p true).abandonPort p false
  (t.modPort p fun x => { x with state := next }).decide

/-- Entry into OFFLINE of port `p` by DISABLE_PORT (R66); an AUTO request of the port that has not
reached the Scheduler is dropped (R105). -/
def State.disable (s : State) (p : PortId) : State :=
  let t := s.modPort p fun x =>
    { x with
      state := .offline, rx := .stopped, char := none, bad := 0, reqs := []
      tx := none, pend := [], heldBack := []
      finishing := match x.tx with
        | some e => some { e with owner := none }
        | none => x.finishing }
  let t := { t with autoReqs := t.autoReqs.filter fun k => k.port != p }
  ((t.loseTemp p true).removePortJobs p).decide

/-! ### The Store Arbiter (R76) -/

/-- Whether port `p` waits for a grant (R76). -/
def State.portWaiting (s : State) (p : PortId) : Bool :=
  (s.port p).state == .online && !(s.port p).reqs.isEmpty
  && (s.port p).outLen < Config.grantThreshold

/-- The mailbox commands that wait for a grant (R174). -/
def needsStore (code : Byte) : Bool :=
  code = 0x01 ∨ code = 0x02 ∨ code = 0x03 ∨ code = 0x04 ∨ code = 0x05 ∨ code = 0x06 ∨ code = 0x0B
    ∨ code = 0x0D

/-- Whether the mailbox waits for a grant (R76, R174). -/
def State.mailboxWaiting (s : State) : Bool :=
  match s.mb.copy with
  | some c => needsStore c.code
  | none => false

/-- The nine requesters: P0 to P7, then the mailbox (R76). -/
abbrev Requester := Fin 9

/-- The mailbox as a requester. -/
def mailboxRequester : Requester := 8

/-- Port `p` as a requester. -/
def portRequester (p : PortId) : Requester := p.castSucc

/-- Whether a requester is waiting (R76). -/
def State.waiting (s : State) (r : Requester) : Bool :=
  if h : r.val < 8 then s.portWaiting ⟨r.val, h⟩ else s.mailboxWaiting

/-- The requester the Arbiter grants next: the first one waiting at or after the pointer (R76). -/
def State.grant (s : State) : Option Requester :=
  ((List.finRange 9).map fun i => s.arb + i).find? s.waiting

/-- The pointer after a grant to `r` (R76). -/
def State.granted (s : State) (r : Requester) : State := { s with arb := r + 1 }

/-! ### The mailbox (R172 to R174) -/

/-- The status is BUSY (R172). -/
def State.busy (s : State) : Bool := s.mb.copy.isSome

/-- A command ends: result, IDLE, MB_DONE (R173). -/
def State.endCommand (s : State) (result : Status) (retired : Bool := false) : State :=
  { s with mb := { s.mb with result := result, retired := retired, copy := none } }.raise .mbDone

/-- A command ends DONE with the buffer it writes (R175, R183, R184, R165). -/
def State.endWithBuffer (s : State) (bytes : List Byte) : State :=
  { s with mb := { s.mb with buffer := Memory.ofBytes bytes } }.endCommand .done

/-- The key a command names; none where an argument is out of range. -/
def CmdCopy.key (c : CmdCopy) : Option Key :=
  match toPort c.port, toClass c.cls with
  | some p, some cls => some ⟨p, cls⟩
  | _, _ => none

/-- The store operation of a mailbox command: taken when the command of this code stands and the
Arbiter grants the mailbox (R76, R77, R174); otherwise nothing is due. -/
def State.onGrant (s : State) (code : Byte) (f : State → CmdCopy → State) : State :=
  match s.mb.copy with
  | some c =>
    if c.code = code ∧ s.grant = some mailboxRequester then f (s.granted mailboxRequester) c else s
  | none => s

/-- A store operation that first checks its key (BAD_VALUE). -/
def State.onGrantKey (s : State) (code : Byte) (f : State → CmdCopy → Key → State) : State :=
  s.onGrant code fun t c =>
    match c.key with
    | some k => f t c k
    | none => t.endCommand .badValue

/-- A command carried out without a grant: taken when the command of this code stands (R174). -/
def State.onCommand (s : State) (code : Byte) (f : State → CmdCopy → State) : State :=
  match s.mb.copy with
  | some c => if c.code = code then f s c else s
  | none => s

/-- A record is retired: slot, entries and directory (R24); a host retirement notifies (R26). -/
def State.retireHost (s : State) (i : SlotId) (r : Record) : State :=
  (s.releaseSlot i).notify r .retired r.gen

end Sys2Proof.Machine
end

