-- ==== Sys2Proof/Machine/Frames.lean ====
section
/-! DEFINITION. Received frames: what the Port Unit does with each kind in each port state
(section 3.3), the error policies (section 3.4), and READY and RESULT at the engine (R124, R130). -/

namespace Sys2Proof.Machine

/-! ### Shared steps -/

/-- A good frame taken by port `p`: `parsed` is its payload, none where it is MALFORMED. In OFFLINE
and HELD it is ignored; elsewhere it sets the bad-frame count to 0, and is answered MALFORMED or
acted on (R54, R57, R63, R67). In every state but OFFLINE the receiver hunts again (R51). -/
def State.takeFrame {α : Type} (s : State) (p : PortId) (tag : Byte) (parsed : Option α)
    (act : State → α → State) : State :=
  let t := s.modPort p fun x => { x with rx := .hunting, bad := 0 }
  match (s.port p).state, parsed with
  | .offline, _ => s
  | .held, _ => s.hunt p
  | _, some a => act t a
  | _, none => t.answerAtOnce p tag .malformed

/-- A request is entered in the request queue, or answered REQUESTS_FULL (R70). -/
def State.queueRequest (s : State) (p : PortId) (tag : Byte) (body : ReqBody) : State :=
  if (s.port p).reqs.length < Config.requestDepth then
    s.modPort p fun x => { x with reqs := x.reqs ++ [⟨tag, body⟩] }
  else s.answerAtOnce p tag .requestsFull

/-- A port request received (R58, R59, R61). -/
def State.takeRequest (s : State) (p : PortId) (tag : Byte) (body : ReqBody) : State :=
  if (s.port p).state = .online then s.queueRequest p tag body
  else s.answerAtOnce p tag .notOnline

/-! ### HELLO (R58, R64, R65) -/

/-- HELLO in SYNCING (R58). -/
def State.helloSyncing (s : State) (p : PortId) (tag version : Byte) : State :=
  if version.toNat = Config.version then
    ((s.welcome p tag).modPort p fun x => { x with state := .online }).enteredOnline
  else s.answerAtOnce p tag .badVersion

/-- HELLO in ONLINE or PARKED: a port restart, to ONLINE or to SYNCING (R64, R65). -/
def State.helloRestart (s : State) (p : PortId) (tag version : Byte) : State :=
  if version.toNat = Config.version then
    (s.restart p .online fun t => t.welcome p tag).enteredOnline
  else s.restart p .syncing fun t => t.answer p tag .badVersion none none

/-- HELLO (R58, R64, R65). -/
def State.takeHello (s : State) (p : PortId) (tag version : Byte) : State :=
  if (s.port p).state = .syncing then s.helloSyncing p tag version
  else s.helloRestart p tag version

/-! ### TEMP (R31) -/

/-- A temperature is handed to the engine running the port's job for the temperature-movement test
(R31, R147). -/
def State.handTest (s : State) (p : PortId) (v : Int) : State :=
  match s.runningPort p with
  | some (e, _) => s.modEngine e fun x => { x with tests := x.tests ++ [⟨p, v⟩] }
  | none => s

/-- A temperature accepted for a port (R31). -/
def State.acceptTemp (s : State) (p : PortId) (v : Int) : State :=
  let t := s.modPort p fun x => { x with temp := .fresh v ⟨s.now, ms (10 * s.freshTime)⟩ }
  ((t.evaluateTemp p v).handTest p v).decide

/-- TEMP: discarded outside ONLINE and outside the temperature range (R31, R58, R61). -/
def State.takeTemp (s : State) (p : PortId) (v : Int) : State :=
  if (s.port p).state = .online ∧ validTemp v then s.acceptTemp p v else s

/-! ### WAKE and RESYNC (R58, R59, R61, R63) -/

/-- WAKE (R58, R59, R61). -/
def State.takeWake (s : State) (p : PortId) (tag : Byte) : State :=
  match (s.port p).state with
  | .parked =>
    ((s.answer p tag .done none none).modPort p fun x => { x with state := .online }).enteredOnline
  | .online => s.answerAtOnce p tag .done
  | .syncing => s.answerAtOnce p tag .notOnline
  | .offline | .held => s

/-- RESYNC: with no payload it takes a HELD port to SYNCING (R63); elsewhere it is discarded. -/
def State.takeResync (s : State) (p : PortId) (tag : Byte) (payload : List Byte) : State :=
  if (s.port p).state = .held ∧ payload = [] then (s.hunt p).enterSyncing p
  else s.takeFrame p tag (parseEmpty payload) fun t _ => t

/-! ### READY and RESULT (R59, R124, R130) -/

/-- READY at the engine running the port's job (R124, R128). -/
def State.takeReady (s : State) (p : PortId) (id : Byte) : State :=
  match s.runningPort p with
  | some (e, c) =>
    if (s.port p).state = .online ∧ c.phase = .announce ∧ c.outstanding = some id then
      s.proceed e c.takeReady
    else s
  | none => s

/-- A RESULT as the Port Unit judges it: `some none` where no job is RUNNING for the port, so that
it is discarded unjudged (R54). -/
def State.judgeResult (s : State) (p : PortId) (payload : List Byte) :
    Option (Option (Byte × List Nat)) :=
  match s.runningPort p with
  | some (_, c) => (parseResult c.profile.laneCount payload).map some
  | none => some none

/-- RESULT at the engine running the port's job (R124, R130). -/
def State.takeResult (s : State) (p : PortId) (id : Byte) (counts : List Nat) : State :=
  match s.runningPort p with
  | some (e, c) =>
    if (s.port p).state = .online ∧ c.sweeping ∧ c.outstanding = some id then
      s.proceed e (c.takeResult counts)
    else s
  | none => s

/-! ### Bad frames (R53, R68, R69) -/

/-- The error policy acts on a bad frame received in SYNCING, ONLINE or PARKED (R68, R69). -/
def State.applyPolicy (s : State) (p : PortId) : State :=
  let x := s.port p
  if x.policy = .tolerant ∧ x.bad < Config.badLimit then
    s.modPort p fun x => { x with rx := .hunting, bad := x.bad + 1 }.placeNak
  else s.enterHeld p

/-- A received frame declared bad (R53, R57, R63, R67 to R69). -/
def State.takeBad (s : State) (p : PortId) : State :=
  match (s.port p).state with
  | .offline => s
  | .held => s.hunt p
  | .syncing | .online | .parked => s.applyPolicy p

/-! ### Meanings -/

/-- HELLO. -/
def execHello (p : PortId) (tag : Byte) (payload : List Byte) (s : State) :
    Host.Outcome State Fault Refusal :=
  .next (s.takeFrame p tag (parseByte payload) fun t version => t.takeHello p tag version)

/-- TEMP. -/
def execTemp (p : PortId) (tag : Byte) (payload : List Byte) (s : State) :
    Host.Outcome State Fault Refusal :=
  .next (s.takeFrame p tag (parseTemp payload) fun t v => t.takeTemp p v)

/-- LOOKUP. -/
def execLookup (p : PortId) (tag : Byte) (payload : List Byte) (s : State) :
    Host.Outcome State Fault Refusal :=
  .next (s.takeFrame p tag (parseClass payload) fun t c => t.takeRequest p tag (.lookup c))

/-- APPLIED. -/
def execApplied (p : PortId) (tag : Byte) (payload : List Byte) (s : State) :
    Host.Outcome State Fault Refusal :=
  .next (s.takeFrame p tag (parseApplied payload) fun t a => t.takeRequest p tag (.applied a.1 a.2))

/-- TRIM. -/
def execTrim (p : PortId) (tag : Byte) (payload : List Byte) (s : State) :
    Host.Outcome State Fault Refusal :=
  .next (s.takeFrame p tag (parseTrim ((s.profiles.get p).map Profile.laneCount) payload) fun t a =>
    t.takeRequest p tag (.trim a.1 a.2.1 a.2.2))

/-- TRAIN. -/
def execTrain (p : PortId) (tag : Byte) (payload : List Byte) (s : State) :
    Host.Outcome State Fault Refusal :=
  .next (s.takeFrame p tag (parseTrain payload) fun t a => t.takeRequest p tag (.train a.1 a.2))

/-- RETIRE. -/
def execRetire (p : PortId) (tag : Byte) (payload : List Byte) (s : State) :
    Host.Outcome State Fault Refusal :=
  .next (s.takeFrame p tag (parseClass payload) fun t c => t.takeRequest p tag (.retire c))

/-- PARK. -/
def execPark (p : PortId) (tag : Byte) (payload : List Byte) (s : State) :
    Host.Outcome State Fault Refusal :=
  .next (s.takeFrame p tag (parseEmpty payload) fun t _ => t.takeRequest p tag .park)

/-- WAKE. -/
def execWake (p : PortId) (tag : Byte) (payload : List Byte) (s : State) :
    Host.Outcome State Fault Refusal :=
  .next (s.takeFrame p tag (parseEmpty payload) fun t _ => t.takeWake p tag)

/-- RESYNC. -/
def execResync (p : PortId) (tag : Byte) (payload : List Byte) (s : State) :
    Host.Outcome State Fault Refusal :=
  .next (s.takeResync p tag payload)

/-- READY. -/
def execReady (p : PortId) (tag : Byte) (payload : List Byte) (s : State) :
    Host.Outcome State Fault Refusal :=
  .next (s.takeFrame p tag (parseByte payload) fun t id => t.takeReady p id)

/-- RESULT. -/
def execResult (p : PortId) (tag : Byte) (payload : List Byte) (s : State) :
    Host.Outcome State Fault Refusal :=
  .next (s.takeFrame p tag (s.judgeResult p payload) fun t a =>
    match a with
    | some (id, counts) => t.takeResult p id counts
    | none => t)

/-- BAD_FRAME; a cause that does not make a frame bad is no bad frame (R53, log 22). -/
def execBadFrame (p : PortId) (cause : BadCause) (s : State) : Host.Outcome State Fault Refusal :=
  .next (if isBad cause then s.takeBad p else s)

/-- UNKNOWN_KIND_FRAME: MALFORMED (R54); a known kind is not one (log 22). -/
def execUnknownKindFrame (p : PortId) (kind tag : Byte) (_payload : List Byte) (s : State) :
    Host.Outcome State Fault Refusal :=
  .next (if isLinkKind kind then s
    else s.takeFrame p tag (none : Option Unit) fun t _ => t)

/-- START_BYTE_RECEIVED (R51). -/
def execStartByteReceived (p : PortId) (s : State) : Host.Outcome State Fault Refusal :=
  .next (if (s.port p).rx = .hunting then s.modPort p fun x => { x with rx := .inFrame [] } else s)

end Sys2Proof.Machine
end

