-- ==== Sys2Proof/Machine/Mailbox.lean ====
section
/-! DEFINITION. The mailbox commands: the start of a command (R172) and the operation that carries
each one out (R174 to R184, chapter 8 for profiles). -/

namespace Sys2Proof.Machine

/-! ### COMMAND_START (R172, R173, R180 to R182) -/

/-- Whether a code names one of the fourteen commands (R193). -/
def isCommand (code : Byte) : Bool := 0x01 ≤ code.toNat && code.toNat ≤ 0x0E

/-- The checks a command makes at its start: none where it goes on, otherwise the result it ends
with (R180, R181, R182). -/
def State.startCheck (s : State) (c : CmdCopy) : Option Status :=
  if c.code = 0x06 then
    match c.key, toUrgency c.urgency with
    | some k, some _ =>
      if (s.port k.port).state = .offline then some .portOffline
      else if s.classEnabled k then none else some .classDisabled
    | _, _ => some .badValue
  else if c.code = 0x07 then
    (match c.key with | some _ => none | none => some .badValue)
  else if c.code = 0x08 ∨ c.code = 0x09 ∨ c.code = 0x0A then
    (match toPort c.port with | some _ => none | none => some .badValue)
  else none

/-- The command copy taken at a start (R172 step 3). -/
def Mailbox.copyFor (m : Mailbox) (code : Byte) : CmdCopy :=
  { code := code, port := m.argPort, cls := m.argClass, urgency := m.argUrgency
    buffer := if code = 0x02 ∨ code = 0x0B then some m.buffer else none }

/-- A write to MB_CMD (R172, R173). -/
def State.startCommand (s : State) (code : Byte) : State :=
  if s.busy then s.raise .mbRefused
  else
    let c := s.mb.copyFor code
    let t := { s with mb := { s.mb with cmd := code, result := .none, retired := false, copy := some c } }
    if isCommand code then
      match t.startCheck c with
      | some result => t.endCommand result
      | none => t
    else t.endCommand .badCommand

/-! ### Commands carried out without a grant -/

/-- ENABLE_PORT: the receiver starts hunting afresh (R51, R57, R182). -/
def State.carryEnablePort (s : State) (c : CmdCopy) : State :=
  match toPort c.port with
  | none => s.endCommand .badValue
  | some p =>
    if (s.port p).state = .offline then
      ((s.modPort p fun x => { x with rx := .hunting, char := none }).enterSyncing p).endCommand .done
    else s.endCommand .wrongState

/-- CLEAR_HOLD; the receiver goes on (R51, R63, R182). -/
def State.carryClearHold (s : State) (c : CmdCopy) : State :=
  match toPort c.port with
  | none => s.endCommand .badValue
  | some p =>
    if (s.port p).state = .held then (s.enterSyncing p).endCommand .done
    else s.endCommand .wrongState

/-- DISABLE_PORT (R66, R182). -/
def State.carryDisablePort (s : State) (c : CmdCopy) : State :=
  match toPort c.port with
  | none => s.endCommand .badValue
  | some p =>
    if (s.port p).state = .offline then s.endCommand .wrongState
    else (s.disable p).endCommand .done

/-- CANCEL_TRAINING (R119, R181). -/
def State.carryCancelTraining (s : State) (c : CmdCopy) : State :=
  match c.key with
  | none => s.endCommand .badValue
  | some k => if s.hasJob k then (s.cancelJobs k).endCommand .done else s.endCommand .noJob

/-- GET_PROFILE (R165). -/
def State.carryGetProfile (s : State) (c : CmdCopy) : State :=
  match c.key with
  | none => s.endCommand .badValue
  | some k => s.endWithBuffer (s.profile k).bytes

/-- The queue list: entries held, then the running jobs, then the queued ones in order (R184). -/
def State.queueList (s : State) : List Byte :=
  let running (e : EngineId) (st : Nat) : List Byte :=
    match (s.engine e).ctx with
    | some c => c.job.entry st
    | none => []
  toByte s.entriesHeld :: running 0 1 ++ running 1 2 ++ (s.queued.map fun j => j.entry 0).flatten

/-- LIST_QUEUE (R184). -/
def State.carryListQueue (s : State) (_ : CmdCopy) : State := s.endWithBuffer s.queueList

/-- A command that waits for nothing is carried out before any later management access (R174,
log 7). -/
def State.settle (s : State) : State :=
  match s.mb.copy with
  | some c =>
    if c.code = 0x08 then s.carryEnablePort c
    else if c.code = 0x0A then s.carryClearHold c
    else if c.code = 0x0C then s.carryGetProfile c
    else if c.code = 0x0E then s.carryListQueue c
    else s
  | none => s

/-! ### Commands carried out at the Record Store -/

/-- READ_RECORD (R175). -/
def State.carryReadRecord (s : State) (_ : CmdCopy) (k : Key) : State :=
  match s.recordOf k with
  | some (_, r) => s.endWithBuffer (s.snapshot r).bytes
  | none => s.endCommand .absent

/-- The fields a preload writes over `r` in either case of R23, but for the condition. -/
def Record.preloaded (r : Record) (m : Memory) (lanes : List LaneEntry) (now : Nat) : Record :=
  { r with
    origin := .loaded, holdOff := false, trained := bufferTrained m, age := bufferAge m
    lanes := lanes, ageSince := now }

/-- A preload over a record (R23, R39): the generation advances, NOTICE REPLACED where the record
had an applied generation and the port is ONLINE (log 20), and the effects of a transition into
STALE other than NOTICE STALE, which R39 gives up for NOTICE REPLACED. -/
def State.preloadOver (s : State) (m : Memory) (lanes : List LaneEntry) (i : SlotId) (r : Record) :
    State :=
  let r' := r.advance.preloaded m lanes s.now
  let cond := preloadCondition (s.budget r.key.cls) (s.port r.key.port).temp r'
  let r' := { r' with cond := cond }
  let t := (s.setSlot i (.occupied r')).notify r .replaced r'.gen
  if cond = .stale ∧ r.cond ≠ .stale then t.staleRequest r' else t

/-- A preload of a key with no record, into FREE slot `i` (R23, R39). -/
def State.preloadNew (s : State) (m : Memory) (lanes : List LaneEntry) (i : SlotId) (k : Key) :
    State :=
  let t := s.advanceStamp
  let n := (s.profile k).laneCount
  let r : Record :=
    { key := k, cond := .dormant, gen := 1, applied := none, origin := .loaded
      trained := bufferTrained m, age := bufferAge m, pinned := false, holdOff := false
      stamp := t.stamp, laneCount := n, lanes := lanes, ageSince := s.now }
  let cond := preloadCondition (s.budget k.cls) (s.port k.port).temp r
  let r := { r with cond := cond }
  let t := t.takeSlot i (.occupied r) n
  if cond = .stale then t.turnedStale r else t

/-- Whether the key has a RESERVED slot (R2). -/
def State.reservedFor (s : State) (k : Key) : Bool := (s.slotOf k).isSome && (s.recordOf k).isNone

/-- PRELOAD_RECORD (R176): the six checks in order. -/
def State.carryPreload (s : State) (c : CmdCopy) (k : Key) : State :=
  let m := c.buffer.getD []
  let p := s.profile k
  if !s.classEnabled k then s.endCommand .classDisabled
  else if bufferLanes m ≠ p.laneCount ∨ bufferRef m ≠ p.refEnable then s.endCommand .laneMismatch
  else
    match validTemp (bufferTrained m), bufferLaneList m (s.budget k.cls).trimLimit with
    | true, some lanes =>
      if s.hasJob k ∨ s.reservedFor k then s.endCommand .jobPending
      else
        match s.recordOf k with
        | some (i, r) => (s.preloadOver m lanes i r).endCommand .done
        | none =>
          match s.allocate p.laneCount with
          | some (i, t) => (t.preloadNew m lanes i k).endCommand .done
          | none => (s.raise .storeFull).endCommand .storeFull
    | _, _ => s.endCommand .badValue

/-- RETIRE_RECORD (R178, R25, R26, R153). -/
def State.carryRetireRecord (s : State) (_ : CmdCopy) (k : Key) : State :=
  match s.recordOf k with
  | some (i, r) => ((s.retireHost i r).cancelJobs k).endCommand .done
  | none => (s.cancelJobs k).endCommand .absent

/-- PIN and UNPIN (R10, R179). -/
def State.carryPin (s : State) (k : Key) (on : Bool) : State :=
  match s.recordOf k with
  | some (i, r) => (s.setSlot i (.occupied { r with pinned := on })).endCommand .done
  | none => s.endCommand .absent

/-- Hold-off of a key's record, if it has one, is cleared (R11). -/
def State.clearHoldOff (s : State) (k : Key) : State :=
  match s.recordOf k with
  | some (i, r) => s.setSlot i (.occupied { r with holdOff := false })
  | none => s

/-- QUEUE_TRAINING (R105, R180). -/
def State.carryQueueTraining (s : State) (c : CmdCopy) (k : Key) : State :=
  match toUrgency c.urgency with
  | none => s.endCommand .badValue
  | some u =>
    let r := (s.clearHoldOff k).enqueue k .management u
    r.1.endCommand r.2

/-- The profile of a key replaced (R163). -/
def State.setProfile (s : State) (k : Key) (p : Profile) : State :=
  { s with profiles := s.profiles.set k.port ((s.profiles.get k.port).set k.cls p) }

/-- SET_PROFILE (R161 to R163). -/
def State.carrySetProfile (s : State) (c : CmdCopy) (k : Key) : State :=
  if (s.port k.port).state ≠ .offline then s.endCommand .portEnabled
  else
    match readProfile (c.buffer.getD []) with
    | none => s.endCommand .badValue
    | some p =>
      let old := s.profile k
      let t := s.setProfile k p
      if p.laneCount ≠ old.laneCount ∨ p.refEnable ≠ old.refEnable then
        match t.recordOf k with
        | some (i, r) => ((t.retireHost i r).cancelJobs k).endCommand .done true
        | none => t.endCommand .done
      else t.endCommand .done

/-- LIST_RECORDS (R183). -/
def State.carryListRecords (s : State) (_ : CmdCopy) : State :=
  s.endWithBuffer (s.slots.rows.map Slot.entry).flatten

/-! ### Meanings -/

/-- COMMAND_START. -/
def execCommandStart (code : Byte) (s : State) : Host.Outcome State Fault Refusal :=
  .next (s.settle.startCommand code)

/-- READ_RECORD. -/
def execReadRecord (s : State) : Host.Outcome State Fault Refusal :=
  .next (s.onGrantKey 0x01 State.carryReadRecord)

/-- PRELOAD_RECORD. -/
def execPreloadRecord (s : State) : Host.Outcome State Fault Refusal :=
  .next (s.onGrantKey 0x02 State.carryPreload)

/-- RETIRE_RECORD. -/
def execRetireRecord (s : State) : Host.Outcome State Fault Refusal :=
  .next (s.onGrantKey 0x03 State.carryRetireRecord)

/-- PIN. -/
def execPin (s : State) : Host.Outcome State Fault Refusal :=
  .next (s.onGrantKey 0x04 fun t _ k => t.carryPin k true)

/-- UNPIN. -/
def execUnpin (s : State) : Host.Outcome State Fault Refusal :=
  .next (s.onGrantKey 0x05 fun t _ k => t.carryPin k false)

/-- QUEUE_TRAINING. -/
def execQueueTraining (s : State) : Host.Outcome State Fault Refusal :=
  .next (s.onGrantKey 0x06 State.carryQueueTraining)

/-- CANCEL_TRAINING. -/
def execCancelTraining (s : State) : Host.Outcome State Fault Refusal :=
  .next (s.onCommand 0x07 State.carryCancelTraining)

/-- ENABLE_PORT. -/
def execEnablePort (s : State) : Host.Outcome State Fault Refusal :=
  .next (s.onCommand 0x08 State.carryEnablePort)

/-- DISABLE_PORT. -/
def execDisablePort (s : State) : Host.Outcome State Fault Refusal :=
  .next (s.onCommand 0x09 State.carryDisablePort)

/-- CLEAR_HOLD. -/
def execClearHold (s : State) : Host.Outcome State Fault Refusal :=
  .next (s.onCommand 0x0A State.carryClearHold)

/-- SET_PROFILE. -/
def execSetProfile (s : State) : Host.Outcome State Fault Refusal :=
  .next (s.onGrantKey 0x0B State.carrySetProfile)

/-- GET_PROFILE. -/
def execGetProfile (s : State) : Host.Outcome State Fault Refusal :=
  .next (s.onCommand 0x0C State.carryGetProfile)

/-- LIST_RECORDS. -/
def execListRecords (s : State) : Host.Outcome State Fault Refusal :=
  .next (s.onGrant 0x0D State.carryListRecords)

/-- LIST_QUEUE. -/
def execListQueue (s : State) : Host.Outcome State Fault Refusal :=
  .next (s.onCommand 0x0E State.carryListQueue)

end Sys2Proof.Machine
end

