-- ==== Sys2Proof/Machine/Registers.lean ====
section
/-! DEFINITION. Resets and register writes (R171, R187, R188, R193, and the rule that owns each
register). Every register write is a management access of one byte. -/

namespace Sys2Proof.Machine

/-! ### Resets -/

/-- A Port Unit after soft reset: policy and autotrain are kept (R49, R79, R140). -/
def Port.softReset (x : Port) : Port := { Port.reset with policy := x.policy, autotrain := x.autotrain }

/-- Hardware reset; the commands still to come stay (log 18). -/
def State.hardReset (s : State) : State := { State.reset with pending := s.pending }

/-- Soft reset, with the ALERT enable the CTRL write carries (R187, R188, R29, R49, R79, R122,
R140, R160, R169). The rest of a transaction in progress is ignored (R187). -/
def State.softReset (s : State) (alert : Bool) : State :=
  { State.reset with
    pending := s.pending
    now := s.now
    ports := s.ports.map Port.softReset
    budgets := s.budgets.map fun b => { b with ageHeld := none }
    freshTime := s.freshTime
    profiles := s.profiles
    trw := s.trw
    windowLimit := s.windowLimit
    spaceAny := s.spaceAny
    spaceGroup := s.spaceGroup
    trialTimeout := s.trialTimeout
    patterns := s.patterns
    mb := { Mailbox.reset with
            argPort := s.mb.argPort, argClass := s.mb.argClass, argUrgency := s.mb.argUrgency
            buffer := s.mb.buffer }
    spi := s.spi.map fun _ => ⟨.ignored, []⟩
    eventEn := s.eventEn
    alertEnable := alert }

/-- A write of CTRL: bit 1 is the ALERT enable, bit 0 the soft reset (R187). -/
def State.writeCtrl (s : State) (v : Byte) : State :=
  if v.getLsbD 0 then s.softReset (v.getLsbD 1) else { s with alertEnable := v.getLsbD 1 }

/-! ### Global parameters (R114, R167, R168) -/

/-- TRW: 1 to 255; entries now outside the window leave the start list (R114). -/
def State.writeTrw (s : State) (v : Byte) : State :=
  if 1 ≤ v.toNat then
    { s.decide with
      trw := v.toNat, startList := s.startList.filter fun t => s.now < t + ms v.toNat }
  else s

/-- WINDOW_LIMIT: 1 to 8 (R114). -/
def State.writeWindowLimit (s : State) (v : Byte) : State :=
  if 1 ≤ v.toNat ∧ v.toNat ≤ 8 then { s.decide with windowLimit := v.toNat } else s

/-- SPACE_ANY: 0 to 63; the spacing timer is set afresh (R114). -/
def State.writeSpaceAny (s : State) (v : Byte) : State :=
  if v.toNat ≤ 63 then
    { s.decide with
      spaceAny := v.toNat, spaceAnyTimer := spacingMoment s.now s.lastAny v.toNat }
  else s

/-- SPACE_GROUP: 0 to 63; the group spacing timers are set afresh (R114). -/
def State.writeSpaceGroup (s : State) (v : Byte) : State :=
  if v.toNat ≤ 63 then
    { s.decide with
      spaceGroup := v.toNat
      spaceGroupTimer := s.lastGroup.map fun last => spacingMoment s.now last v.toNat }
  else s

/-- TRIAL_TIMEOUT: 1 to 31 (R167). -/
def State.writeTrialTimeout (s : State) (v : Byte) : State :=
  if 1 ≤ v.toNat ∧ v.toNat ≤ 31 then { s with trialTimeout := v.toNat } else s

/-- FRESH_TIME: 1 to 255 steps of 10 ms (R167). -/
def State.writeFreshTime (s : State) (v : Byte) : State :=
  if 1 ≤ v.toNat then { s with freshTime := v.toNat } else s

/-! ### Class budgets (R40 to R42) -/

/-- The parameters of class `c` replaced. -/
def State.setBudget (s : State) (c : ClassId) (b : Budget) : State :=
  { s with budgets := s.budgets.set c b }

/-- The present temperature of the port of a running job of class `c` is handed to its engine for
the temperature-movement test (R42, R147). -/
def State.handBudgetTests (s : State) (c : ClassId) : State :=
  { s with engines := s.engines.map fun x =>
      match x.ctx with
      | none => x
      | some ctx =>
        match (s.port ctx.job.key.port).temp with
        | .fresh v _ =>
          if ctx.job.key.cls = c then { x with tests := x.tests ++ [⟨ctx.job.key.port, v⟩] } else x
        | .unknown => x }

/-- Drift budget: 1 to 63 half degrees (R40, R41, R42). -/
def State.writeDriftBudget (s : State) (c : ClassId) (v : Byte) : State :=
  if 1 ≤ v.toNat ∧ v.toNat ≤ 63 then
    ((s.setBudget c { s.budget c with drift := v.toNat }).evaluateBudget c).handBudgetTests c
  else s

/-- The low byte of an age limit is held (R171). -/
def State.holdAgeLimit (s : State) (c : ClassId) (low : Byte) : State :=
  s.setBudget c { s.budget c with ageHeld := some low }

/-- The value an age limit's high byte completes: the held low byte, or else the present one
(R171). -/
def Budget.ageValue (b : Budget) (high : Byte) : Nat :=
  fromLe16 (b.ageHeld.getD (toByte b.ageLimit)) high

/-- Age limit, on the write of its high byte: 0 to 1023 minutes; the held byte is used up (R40,
R41, R171, log 13). -/
def State.writeAgeLimit (s : State) (c : ClassId) (high : Byte) : State :=
  let b := s.budget c
  if b.ageValue high ≤ 1023 then
    (s.setBudget c { b with ageLimit := b.ageValue high, ageHeld := none }).evaluateBudget c
  else s.setBudget c { b with ageHeld := none }

/-- Trim limit: 1 to 15 taps (R40, R41). -/
def State.writeTrimLimit (s : State) (c : ClassId) (v : Byte) : State :=
  if 1 ≤ v.toNat ∧ v.toNat ≤ 15 then
    (s.setBudget c { s.budget c with trimLimit := v.toNat }).evaluateBudget c
  else s

/-! ### Per-port settings and the Pattern Table -/

/-- Error policy: bit 0 (R69, R193). -/
def State.writeErrorPolicy (s : State) (p : PortId) (v : Byte) : State :=
  s.modPort p fun x => { x with policy := if v.getLsbD 0 then .strict else .tolerant }

/-- Autotrain enable: bit 0; a write of enabled is followed by a rescan (R166, R193). -/
def State.writeAutotrain (s : State) (p : PortId) (v : Byte) : State :=
  let t := s.modPort p fun x => { x with autotrain := v.getLsbD 0 }
  if v.getLsbD 0 then t.rescanAfter 1 else t

/-- The low byte of a Pattern Table word is held (R126, R171). -/
def State.holdPattern (s : State) (w : PatternId) (low : Byte) : State :=
  { s with patternHeld := s.patternHeld.set w (some low) }

/-- A Pattern Table word, on the write of its high byte (R126, R171). -/
def State.writePattern (s : State) (w : PatternId) (high : Byte) : State :=
  let low := ((s.patternHeld.get w).getD (toByte (s.patterns.get w).toNat))
  { s with
    patterns := s.patterns.set w (BitVec.ofNat 16 (fromLe16 low high))
    patternHeld := s.patternHeld.set w none }

/-! ### Any register byte (R171, R193) -/

/-- Index `n mod m` of a table of `m` rows. -/
def rowIndex (m : Nat) (h : 0 < m) (n : Nat) : Fin m := ⟨n % m, Nat.mod_lt n h⟩

/-- A write of one byte of the class budget registers, 0x0050 to 0x005F. -/
def State.writeBudgetByte (s : State) (off : Nat) (v : Byte) : State :=
  let c : ClassId := rowIndex 4 (by decide) (off / 4)
  if off % 4 = 0 then s.writeDriftBudget c v
  else if off % 4 = 1 then s.holdAgeLimit c v
  else if off % 4 = 2 then s.writeAgeLimit c v
  else s.writeTrimLimit c v

/-- A write of one byte of the Pattern Table registers, 0x0060 to 0x006F. -/
def State.writePatternByte (s : State) (off : Nat) (v : Byte) : State :=
  let w : PatternId := rowIndex 8 (by decide) (off / 2)
  if off % 2 = 0 then s.holdPattern w v else s.writePattern w v

/-- A write of one byte of the port registers, 0x0080 to 0x00BF: two of the eight are
read-write. -/
def State.writePortByte (s : State) (off : Nat) (v : Byte) : State :=
  let p : PortId := rowIndex 8 (by decide) (off / 8)
  if off % 8 = 0 then s.writeErrorPolicy p v
  else if off % 8 = 1 then s.writeAutotrain p v
  else s

/-- A write of a mailbox argument or of a byte of the buffer. -/
def State.setMailbox (s : State) (m : Mailbox) : State := { s with mb := m }

/-- A write of the register byte at an address; a write to a read-only byte or to an address that
holds no register is ignored (R171, R193). -/
def State.writeByte (s : State) (a : Nat) (v : Byte) : State :=
  if a = 0x10 then s.writeCtrl v
  else if a = 0x11 then { s with events := clearFlags s.events v }
  else if a = 0x12 then { s with eventEn := v }
  else if a = 0x20 then s.startCommand v
  else if a = 0x21 then s.setMailbox { s.mb with argPort := v }
  else if a = 0x22 then s.setMailbox { s.mb with argClass := v }
  else if a = 0x23 then s.setMailbox { s.mb with argUrgency := v }
  else if a = 0x40 then s.writeTrw v
  else if a = 0x41 then s.writeWindowLimit v
  else if a = 0x42 then s.writeSpaceAny v
  else if a = 0x43 then s.writeSpaceGroup v
  else if a = 0x44 then s.writeTrialTimeout v
  else if a = 0x45 then s.writeFreshTime v
  else if 0x50 ≤ a ∧ a < 0x60 then s.writeBudgetByte (a - 0x50) v
  else if 0x60 ≤ a ∧ a < 0x70 then s.writePatternByte (a - 0x60) v
  else if 0x80 ≤ a ∧ a < 0xC0 then s.writePortByte (a - 0x80) v
  else if 0x100 ≤ a ∧ a < 0x160 then
    s.setMailbox { s.mb with buffer := s.mb.buffer.write (a - 0x100) v }
  else s

/-! ### Meanings -/

/-- HARDWARE_RESET. -/
def execHardwareReset (s : State) : Host.Outcome State Fault Refusal := .next s.hardReset

/-- SOFT_RESET. -/
def execSoftReset (alert : Bool) (s : State) : Host.Outcome State Fault Refusal :=
  .next (s.settle.softReset alert)

/-- ALERT_ENABLE_WRITE (R186, R187). -/
def execAlertEnableWrite (alert : Bool) (s : State) : Host.Outcome State Fault Refusal :=
  .next { s.settle with alertEnable := alert }

/-- EVENTS_WRITE (R185). -/
def execEventsWrite (v : Byte) (s : State) : Host.Outcome State Fault Refusal :=
  .next { s.settle with events := clearFlags s.settle.events v }

/-- EVENT_EN_WRITE (R186). -/
def execEventEnWrite (v : Byte) (s : State) : Host.Outcome State Fault Refusal :=
  .next { s.settle with eventEn := v }

/-- REGISTER_WRITE: any register byte (R171, R193, log 21). -/
def execRegisterWrite (addr : BitVec 16) (v : Byte) (s : State) : Host.Outcome State Fault Refusal :=
  .next (s.settle.writeByte addr.toNat v)

/-- TRW_WRITE. -/
def execTrwWrite (v : Byte) (s : State) : Host.Outcome State Fault Refusal :=
  .next (s.settle.writeTrw v)

/-- WINDOW_LIMIT_WRITE. -/
def execWindowLimitWrite (v : Byte) (s : State) : Host.Outcome State Fault Refusal :=
  .next (s.settle.writeWindowLimit v)

/-- SPACE_ANY_WRITE. -/
def execSpaceAnyWrite (v : Byte) (s : State) : Host.Outcome State Fault Refusal :=
  .next (s.settle.writeSpaceAny v)

/-- SPACE_GROUP_WRITE. -/
def execSpaceGroupWrite (v : Byte) (s : State) : Host.Outcome State Fault Refusal :=
  .next (s.settle.writeSpaceGroup v)

/-- TRIAL_TIMEOUT_WRITE. -/
def execTrialTimeoutWrite (v : Byte) (s : State) : Host.Outcome State Fault Refusal :=
  .next (s.settle.writeTrialTimeout v)

/-- FRESH_TIME_WRITE. -/
def execFreshTimeWrite (v : Byte) (s : State) : Host.Outcome State Fault Refusal :=
  .next (s.settle.writeFreshTime v)

/-- DRIFT_BUDGET_WRITE. -/
def execDriftBudgetWrite (c : ClassId) (v : Byte) (s : State) : Host.Outcome State Fault Refusal :=
  .next (s.settle.writeDriftBudget c v)

/-- AGE_LIMIT_WRITE: the high byte. -/
def execAgeLimitWrite (c : ClassId) (high : Byte) (s : State) : Host.Outcome State Fault Refusal :=
  .next (s.settle.writeAgeLimit c high)

/-- TRIM_LIMIT_WRITE. -/
def execTrimLimitWrite (c : ClassId) (v : Byte) (s : State) : Host.Outcome State Fault Refusal :=
  .next (s.settle.writeTrimLimit c v)

/-- ERROR_POLICY_WRITE. -/
def execErrorPolicyWrite (p : PortId) (v : Byte) (s : State) : Host.Outcome State Fault Refusal :=
  .next (s.settle.writeErrorPolicy p v)

/-- AUTOTRAIN_WRITE. -/
def execAutotrainWrite (p : PortId) (v : Byte) (s : State) : Host.Outcome State Fault Refusal :=
  .next (s.settle.writeAutotrain p v)

/-- PATTERN_WORD_WRITE: the high byte. -/
def execPatternWordWrite (w : PatternId) (high : Byte) (s : State) : Host.Outcome State Fault Refusal :=
  .next (s.settle.writePattern w high)

end Sys2Proof.Machine
end

