-- ==== Sys2Proof/Machine/Services.lean ====
section
/-! DEFINITION. The service of port requests at the Record Store (chapter 4, and R60 for PARK). -/

namespace Sys2Proof.Machine

/-! ### The shared course of a service (R80, R81) -/

/-- Step 1 of R80: the head of port `p`'s queue is removed at the port's grant (R76, R77). -/
def State.takeHead (s : State) (p : PortId) : State :=
  (s.modPort p fun x => { x with reqs := x.reqs.tail }).granted (portRequester p)

/-- The service of a request of one kind: taken when the request stands at the head of the port's
queue and the Arbiter grants the port; otherwise nothing is due (R76, R80, log 6). -/
def State.serve {α : Type} (s : State) (p : PortId) (kind : ReqBody → Option α)
    (f : State → Byte → α → State) : State :=
  match (s.port p).reqs with
  | [] => s
  | r :: _ =>
    match kind r.body with
    | some a => if s.grant = some (portRequester p) then f (s.takeHead p) r.tag a else s
    | none => s

/-- The class-enabled check that comes before a request's own (R81). -/
def State.ifEnabled (s : State) (k : Key) (tag : Byte) (f : State → State) : State :=
  if s.classEnabled k then f s else s.answer k.port tag .classDisabled none none

/-- ABSENT, with the job flags as they stand (R82). -/
def State.answerAbsent (s : State) (k : Key) (tag : Byte) : State :=
  s.answer k.port tag .absent none (some (s.flags k))

/-! ### LOOKUP (R83) -/

/-- A LOOKUP for an enabled class. -/
def State.serveLookup (s : State) (k : Key) (tag : Byte) : State :=
  match s.recordOf k with
  | some (i, r) => (s.touch i).emit k.port (.record tag (s.snapshot r))
  | none => s.answerAbsent k tag

/-! ### APPLIED (R85) -/

/-- An APPLIED naming generation `g` for an enabled class. -/
def State.serveApplied (s : State) (k : Key) (tag : Byte) (g : Nat) : State :=
  match s.recordOf k with
  | some (i, r) =>
    let t := s.touch i
    if g = r.gen then
      (t.setSlot i ((t.slot i).mapRecord fun x => { x with applied := some g })).answer k.port tag
        .done (some g) none
    else t.answer k.port tag .staleGeneration (some r.gen) none
  | none => s.answerAbsent k tag

/-! ### TRIM (R87 to R92) -/

/-- Check 5 on one lane: a FAILED lane has delta 0, and the new tap lies within 0 to 63 (R90). -/
def trimInRange (l : LaneEntry) (d : Int) : Bool :=
  (l.cond != .failed || d == 0) && 0 ≤ (l.tap : Int) + d && (l.tap : Int) + d ≤ 63

/-- Check 6 on one lane: the new trim offset lies within the class trim limit (R91). -/
def trimWithin (limit : Nat) (l : LaneEntry) (d : Int) : Bool := (l.trim + d).natAbs ≤ limit

/-- A lane with its delta added to tap and trim offset (R92). -/
def LaneEntry.trimmed (l : LaneEntry) (d : Int) : LaneEntry :=
  { l with tap := ((l.tap : Int) + d).toNat, trim := l.trim + d }

/-- The lanes with their deltas added, in lane order (R92). -/
def trimmedLanes (lanes : List LaneEntry) (deltas : List Int) : List LaneEntry :=
  List.zipWith LaneEntry.trimmed lanes deltas

/-- Whether a check on one lane and its delta passes on every lane. -/
def onEveryLane (check : LaneEntry → Int → Bool) (lanes : List LaneEntry) (deltas : List Int) : Bool :=
  (List.zipWith check lanes deltas).all id

/-- The first check of R87 that a TRIM fails, as the status of its refusal; none where it passes all
six. -/
def State.trimCheck (s : State) (k : Key) (r : Record) (g : Nat) (deltas : List Int) : Option Status :=
  if s.jobRunning k then some .busy
  else if g ≠ r.gen then some .staleGeneration
  else if r.applied ≠ some r.gen then some .notApplied
  else if r.cond ≠ .current then some .notCurrent
  else if !onEveryLane trimInRange r.lanes deltas then some .outOfRange
  else if !onEveryLane (trimWithin (s.budget k.cls).trimLimit) r.lanes deltas then some .trimLimit
  else none

/-- The record an accepted TRIM leaves (R92): the new generation, applied too. -/
def Record.trimmed (r : Record) (deltas : List Int) : Record :=
  { r with
    lanes := trimmedLanes r.lanes deltas, gen := nextGen r.gen, applied := some (nextGen r.gen) }

/-- A TRIM naming generation `g` for an enabled class (R87, R91, R92). -/
def State.serveTrim (s : State) (k : Key) (tag : Byte) (g : Nat) (deltas : List Int) : State :=
  match s.recordOf k with
  | some (i, r) =>
    let t := s.touch i
    match s.trimCheck k r g deltas with
    | none =>
      (t.setSlot i ((t.slot i).mapRecord fun x => x.trimmed deltas)).answer k.port tag .done
        (some (nextGen r.gen)) none
    | some .busy => t.answer k.port tag .busy (some r.gen) (some (s.flags k))
    | some .trimLimit => (t.answer k.port tag .trimLimit (some r.gen) none).setCondition i .stale
    | some status => t.answer k.port tag status (some r.gen) none
  | none => s.answerAbsent k tag

/-! ### RETIRE (R94, R95) -/

/-- A RETIRE for an enabled class: the answer, then the END of an aborted job (R95). -/
def State.serveRetire (s : State) (k : Key) (tag : Byte) : State :=
  match s.recordOf k with
  | some (i, r) =>
    if r.pinned then s.answer k.port tag .pinned (some r.gen) none
    else ((s.releaseSlot i).answer k.port tag .done (some r.gen) none).cancelJobs k
  | none => (s.answer k.port tag .absent none (some ⟨false, false⟩)).cancelJobs k

/-! ### TRAIN (R97) -/

/-- A TRAIN for an enabled class. -/
def State.serveTrain (s : State) (k : Key) (tag : Byte) (u : Urgency) : State :=
  let r := (s.clearHoldOff k).enqueue k .port u
  r.1.answer k.port tag r.2 none (some (r.1.flags k))

/-! ### PARK (R60) -/

/-- The service of PARK: steps 1 to 5 of R60. DONE is placed at the tail, behind the frames already on the
output list, as R72 says of every frame; that this holds against R60's "in order after the DONE" is the
model's choice (log 31). -/
def State.servePark (s : State) (p : PortId) (tag : Byte) : State :=
  let t := (s.answer p tag .done none none).modPort p fun x => { x with reqs := [], state := .parked }
  ((t.loseTemp p false).abandonPort p false).decide

/-! ### Meanings -/

/-- LOOKUP_SERVICE. -/
def execLookupService (p : PortId) (s : State) : Host.Outcome State Fault Refusal :=
  .next (s.serve p (fun | .lookup c => some c | _ => none) fun t tag c =>
    t.ifEnabled ⟨p, c⟩ tag fun t => t.serveLookup ⟨p, c⟩ tag)

/-- APPLIED_SERVICE. -/
def execAppliedService (p : PortId) (s : State) : Host.Outcome State Fault Refusal :=
  .next (s.serve p (fun | .applied c g => some (c, g) | _ => none) fun t tag a =>
    t.ifEnabled ⟨p, a.1⟩ tag fun t => t.serveApplied ⟨p, a.1⟩ tag a.2)

/-- TRIM_SERVICE. -/
def execTrimService (p : PortId) (s : State) : Host.Outcome State Fault Refusal :=
  .next (s.serve p (fun | .trim c g ds => some (c, g, ds) | _ => none) fun t tag a =>
    t.ifEnabled ⟨p, a.1⟩ tag fun t => t.serveTrim ⟨p, a.1⟩ tag a.2.1 a.2.2)

/-- RETIRE_SERVICE. -/
def execRetireService (p : PortId) (s : State) : Host.Outcome State Fault Refusal :=
  .next (s.serve p (fun | .retire c => some c | _ => none) fun t tag c =>
    t.ifEnabled ⟨p, c⟩ tag fun t => t.serveRetire ⟨p, c⟩ tag)

/-- TRAIN_SERVICE. -/
def execTrainService (p : PortId) (s : State) : Host.Outcome State Fault Refusal :=
  .next (s.serve p (fun | .train c u => some (c, u) | _ => none) fun t tag a =>
    t.ifEnabled ⟨p, a.1⟩ tag fun t => t.serveTrain ⟨p, a.1⟩ tag a.2)

/-- PARK_SERVICE. -/
def execParkService (p : PortId) (s : State) : Host.Outcome State Fault Refusal :=
  .next (s.serve p (fun | .park => some () | _ => none) fun t tag _ => t.servePark p tag)

end Sys2Proof.Machine
end

