-- ==== Sys2Proof/Machine/Timers.lean ====
section
/-! DEFINITION. Timer expiries (R13, R32, R113, R143, R144). An expiry whose timer is not running
changes nothing (log 4); one whose timer runs is taken at the timer's moment (log 3). -/

namespace Sys2Proof.Machine

/-! ### Port and slot timers -/

/-- A port's freshness timer expires (R32, R150). -/
def State.expireFreshness (s : State) (p : PortId) : State :=
  match (s.port p).temp with
  | .unknown => s
  | .fresh _ timer => (((s.reach timer.due).loseTemp p false).abandonPort p true).decide

/-- The age after one more minute (R13). -/
def nextAge (age : Nat) : Nat := if age < Config.ageMax then age + 1 else age

/-- The record with one more minute, and the next minute started (R13). -/
def Record.aged (r : Record) : Record :=
  { r with age := nextAge r.age, ageSince := r.ageSince + ms Config.minuteMs }

/-- A slot's age timer expires, and the age is checked against the class limit (R13, R36). -/
def State.expireAge (s : State) (i : SlotId) : State :=
  match s.slot i with
  | .occupied r =>
    let t := (s.reach (r.ageSince + ms Config.minuteMs)).setSlot i (.occupied r.aged)
    if ageOk (s.budget r.key.cls) r.aged.age then t else t.setCondition i .stale
  | .free | .reserved _ _ => s

/-! ### The trial timer (R143, R144) -/

/-- A failure operation is asked for: the outstanding id becomes none and FINISH is entered (R144,
R149). -/
def Ctx.askFailure (c : Ctx) (o : JobOutcome) : Ctx :=
  { c with outstanding := none, timer := none, phase := .finish, request := some (.failure o) }

/-- An engine's trial timer expires: a resend, or on the second timeout the failure operation asked
for (R143, R144). -/
def State.expireTrial (s : State) (e : EngineId) : State :=
  match (s.engine e).ctx with
  | none => s
  | some c =>
    match c.timer with
    | none => s
    | some timer =>
      let t := s.reach timer.due
      if c.retry then t.setCtx e (some (c.askFailure .unresponsive))
      else t.placeDirective e c true

/-! ### Scheduler timers (R113) -/

/-- The oldest start leaves the start list (R113). -/
def State.departStart (s : State) : State :=
  match s.startList with
  | [] => s
  | t :: rest => { (s.reach (t + ms s.trw)).decide with startList := rest }

/-- SPACE_ANY is reached after the last start (R113). -/
def State.expireSpaceAny (s : State) : State :=
  match s.spaceAnyTimer with
  | none => s
  | some m => { (s.reach m).decide with spaceAnyTimer := none }

/-- SPACE_GROUP is reached after the last start in group `g` (R113). -/
def State.expireSpaceGroup (s : State) (g : GroupId) : State :=
  match s.spaceGroupTimer.get g with
  | none => s
  | some m => { (s.reach m).decide with spaceGroupTimer := s.spaceGroupTimer.set g none }

/-! ### Meanings -/

/-- FRESHNESS_EXPIRY. -/
def execFreshnessExpiry (p : PortId) (s : State) : Host.Outcome State Fault Refusal :=
  .next (s.expireFreshness p)

/-- AGE_TIMER_EXPIRY. -/
def execAgeTimerExpiry (i : SlotId) (s : State) : Host.Outcome State Fault Refusal :=
  .next (s.expireAge i)

/-- TRIAL_TIMER_EXPIRY. -/
def execTrialTimerExpiry (e : EngineId) (s : State) : Host.Outcome State Fault Refusal :=
  .next (s.expireTrial e)

/-- START_LIST_DEPARTURE. -/
def execStartListDeparture (s : State) : Host.Outcome State Fault Refusal := .next s.departStart

/-- SPACE_ANY_EXPIRY. -/
def execSpaceAnyExpiry (s : State) : Host.Outcome State Fault Refusal := .next s.expireSpaceAny

/-- SPACE_GROUP_EXPIRY. -/
def execSpaceGroupExpiry (g : GroupId) (s : State) : Host.Outcome State Fault Refusal :=
  .next (s.expireSpaceGroup g)

end Sys2Proof.Machine
end

