-- ==== Sys2Proof/Machine/Training.lean ====
section
/-! DEFINITION. The work of the Training Scheduler and the sweep engines: AUTO requests, movement
tests, start decisions, rescans, and the store operations of a job (chapters 5 to 7). -/

namespace Sys2Proof.Machine

/-! ### AUTO_REQUEST (R45, R105) -/

/-- The AUTO request handed over first is taken; it is dropped if its port is OFFLINE (R105). -/
def State.takeAutoRequest (s : State) : State :=
  match s.autoReqs with
  | [] => s
  | k :: rest =>
    let t := { s with autoReqs := rest }
    if (s.port k.port).state = .offline then t else t.enqueueAuto k

/-! ### TEMPERATURE_MOVEMENT_TEST (R147 to R149) -/

/-- Whether a temperature lies further from the start temperature than half the drift budget, which
is counted in half degrees (R147). -/
def moved (drift : Nat) (v start : Int) : Bool := drift < 2 * (v - start).natAbs

/-- Whether a job waits for a failure or NO_EYE operation (R149). -/
def Ctx.failing (c : Ctx) : Bool :=
  match c.request with
  | some .noEye => true
  | some (.failure _) => true
  | some .reserve | some .commit | none => false

/-- What follows where the job on engine `e` has moved (R148, R149). -/
def State.onMoved (s : State) (e : EngineId) (c : Ctx) : State :=
  if c.job.attempts = 0 then s.abandon e c true 1
  else if c.failing then s
  else s.setCtx e (some (c.askFailure .unsettled))

/-- The test handed to engine `e` first is taken; it acts on a job of its port (R147). -/
def State.takeTest (s : State) (e : EngineId) : State :=
  match (s.engine e).tests with
  | [] => s
  | test :: rest =>
    let t := s.modEngine e fun x => { x with tests := rest }
    match (s.engine e).ctx with
    | none => t
    | some c =>
      if c.job.key.port = test.port ∧ moved (s.budget c.job.key.cls).drift test.v c.startTemp then
        t.onMoved e c
      else t

/-! ### START_DECISION (R111, R112, R115, R116) -/

/-- The idle engine a start takes: E0 if it is idle, otherwise E1 (R115). -/
def State.idleEngine (s : State) : Option EngineId :=
  (List.finRange 2).find? fun e => (s.engine e).ctx.isNone

/-- The admission tests that do not depend on the job: window and overall spacing (R112). -/
def State.admitting (s : State) : Bool :=
  s.startList.length < s.windowLimit && spacingMet s.now s.lastAny s.spaceAny

/-- The temperature of a job's port, where the job is eligible and passes its group spacing test
(R111, R112). -/
def State.startable (s : State) (j : Job) : Option Int :=
  match (s.port j.key.port).temp with
  | .fresh v _ =>
    if (s.port j.key.port).state = .online ∧ (s.runningPort j.key.port).isNone
        ∧ spacingMet s.now (s.lastGroup.get (groupOf j.key.port)) s.spaceGroup then some v
    else none
  | .unknown => none

/-- The context an engine takes at a start (R116 step 3), its reservation still to be claimed. -/
def State.startCtx (s : State) (j : Job) (v : Int) : Ctx where
  job := j
  phase := .claim
  index := 0
  outstanding := none
  leaving := none
  timer := none
  retry := false
  profile := s.profile j.key
  patterns := s.patterns
  startTemp := v
  prior := none
  delayMap := []
  delayEye := []
  refMap := []
  refEye := []
  request := some .reserve

/-- The start records after a start now in group `g`, with the spacing timers (R113, R116 step 2). -/
def State.recordStart (s : State) (g : GroupId) : State :=
  { s with
    startList := s.startList ++ [s.now]
    lastAny := some s.now
    lastGroup := s.lastGroup.set g (some s.now)
    spaceAnyTimer := spacingMoment s.now (some s.now) s.spaceAny
    spaceGroupTimer := s.spaceGroupTimer.set g (spacingMoment s.now (some s.now) s.spaceGroup) }

/-- A job starts on engine `e` at temperature `v`; a second decision follows (R115, R116). -/
def State.startJob (s : State) (e : EngineId) (j : Job) (v : Int) : State :=
  (({ s with queued := withoutKey j.key s.queued }.recordStart (groupOf j.key.port)).setCtx e
    (some (s.startCtx j v))).decide

/-- The first QUEUED job, in queue order, that is eligible and passes its group spacing test, with
its port's temperature (R115). -/
def State.firstStartable (s : State) : Option (Job × Int) :=
  s.queued.findSome? fun j => (s.startable j).map fun v => (j, v)

/-- A start decision, where one is due (R115). -/
def State.decideStart (s : State) : State :=
  if s.decision then
    let t := { s with decision := false }
    match t.idleEngine, t.firstStartable with
    | some e, some (j, v) => if t.admitting then t.startJob e j v else t
    | _, _ => t
  else s

/-! ### RESCAN (R109) -/

/-- Whether a rescan makes an AUTO request for a record (R109). -/
def State.rescanWants (s : State) (r : Record) : Bool :=
  r.cond == .stale && !r.holdOff && (s.port r.key.port).state != .offline
  && (s.port r.key.port).autotrain && !s.hasJob r.key

/-- The walk of a rescan over records in slot order; it stops at the first wanted record when all
entries are held (R109). -/
def State.rescanWalk (s : State) : List Record → State
  | [] => s
  | r :: rest =>
    if s.rescanWants r then
      if Config.queueEntries ≤ s.entriesHeld then s
      else (s.enqueue r.key .auto .routine).1.rescanWalk rest
    else s.rescanWalk rest

/-- A rescan, where one is due; a start decision follows (R109, R110). -/
def State.rescan (s : State) : State :=
  match s.rescans with
  | 0 => s
  | n + 1 => ({ s with rescans := n }.rescanWalk s.records).decide

/-! ### RESERVATION (R19, R117, R128) -/

/-- The job on engine `e` enters ANNOUNCE with its prior lane values, and BEGIN is placed (R123,
R128). -/
def State.announce (s : State) (e : EngineId) (c : Ctx) (prior : Option (List PriorLane)) : State :=
  s.placeDirective e { c.clearMaps with phase := .announce, prior := prior, request := none } false

/-- A lane's prior values (R123). -/
def LaneEntry.prior (l : LaneEntry) : PriorLane := ⟨l.tap, l.ref.map RefFields.level⟩

/-- The slot taken for a key's reservation (R19). -/
def State.reserveSlot (s : State) (i : SlotId) (k : Key) : State :=
  s.takeSlot i (.reserved k (s.profile k).laneCount) (s.profile k).laneCount

/-- The job on engine `e` ends STORE_FULL (R117). -/
def State.endStoreFull (s : State) (e : EngineId) (k : Key) : State :=
  ((s.raise .storeFull).endJob e k .storeFull none).raise .jobFailed

/-- The claim of the job on engine `e` on the store (R19, R117). -/
def State.reserve (s : State) (e : EngineId) (c : Ctx) : State :=
  let k := c.job.key
  match s.recordOf k, s.slotOf k with
  | some (_, r), _ => s.announce e c (some (r.lanes.map LaneEntry.prior))
  | none, some _ => s
  | none, none =>
    match s.allocate (s.profile k).laneCount with
    | some (i, t) => (t.reserveSlot i k).announce e c none
    | none => s.endStoreFull e k

/-! ### COMMIT (R21, R22, R136, R137) -/

/-- The record a commit creates in a RESERVED slot (R21). -/
def Ctx.newRecord (c : Ctx) (stamp now laneCount : Nat) : Record where
  key := c.job.key
  cond := .current
  gen := 1
  applied := none
  origin := .trained
  trained := c.startTemp
  age := 0
  pinned := false
  holdOff := false
  stamp := stamp
  laneCount := laneCount
  lanes := c.commitLanes none
  ageSince := now

/-- The record a commit leaves of an existing one (R22). -/
def Ctx.rewrite (c : Ctx) (r : Record) (now : Nat) : Record :=
  { r.advance with
    cond := .current, origin := .trained, trained := c.startTemp, age := 0, holdOff := false
    lanes := c.commitLanes (some r.lanes), ageSince := now }

/-- The port's present temperature has not moved from the job's start temperature: what R38 says
holds at every commit (log 12). -/
def State.steady (s : State) (c : Ctx) : Bool :=
  match (s.port c.job.key.port).temp with
  | .fresh v _ => !moved (s.budget c.job.key.cls).drift v c.startTemp
  | .unknown => false

/-- The commit of the job on engine `e` (R137). -/
def State.commit (s : State) (e : EngineId) (c : Ctx) : State :=
  let k := c.job.key
  match s.slotOf k with
  | none => s
  | some i =>
    match s.slot i with
    | .free => s
    | .reserved _ n =>
      let t := s.advanceStamp
      (t.setSlot i (.occupied (c.newRecord t.stamp s.now n))).endJob e k c.outcome (some 1)
    | .occupied r =>
      (s.setSlot i (.occupied (c.rewrite r s.now))).endJob e k c.outcome (some (nextGen r.gen))

/-! ### NO_EYE and FAILURE_OPERATION (R138, R145) -/

/-- Hold-off is set on the key's record, if it has one (R11). -/
def State.setHoldOff (s : State) (k : Key) : State :=
  match s.recordOf k with
  | some (i, r) => s.setSlot i (.occupied { r with holdOff := true })
  | none => s

/-- The job on engine `e` ends with a failed outcome: hold-off or the release of the reservation,
END, JOB_FAILED (R138, R145). -/
def State.endFailed (s : State) (e : EngineId) (c : Ctx) (o : JobOutcome) : State :=
  ((s.setHoldOff c.job.key).endJob e c.job.key o none).raise .jobFailed

/-! ### Meanings -/

/-- A store operation of engine `e`: taken when its job waits for it, otherwise nothing is due
(log 4). -/
def State.onRequest (s : State) (e : EngineId) (f : Ctx → StoreRequest → State) : State :=
  match (s.engine e).ctx with
  | none => s
  | some c =>
    match c.request with
    | some q => f c q
    | none => s

/-- AUTO_REQUEST. -/
def execAutoRequest (s : State) : Host.Outcome State Fault Refusal := .next s.takeAutoRequest

/-- TEMPERATURE_MOVEMENT_TEST. -/
def execTemperatureMovementTest (e : EngineId) (s : State) : Host.Outcome State Fault Refusal :=
  .next (s.takeTest e)

/-- START_DECISION. -/
def execStartDecision (s : State) : Host.Outcome State Fault Refusal := .next s.decideStart

/-- RESCAN. -/
def execRescan (s : State) : Host.Outcome State Fault Refusal := .next s.rescan

/-- RESERVATION. -/
def execReservation (e : EngineId) (s : State) : Host.Outcome State Fault Refusal :=
  .next (s.onRequest e fun c q => if q = .reserve then s.reserve e c else s)

/-- COMMIT; a job that has moved does not commit (R38, log 12). -/
def execCommit (e : EngineId) (s : State) : Host.Outcome State Fault Refusal :=
  .next (s.onRequest e fun c q => if q = .commit ∧ s.steady c then s.commit e c else s)

/-- NO_EYE. -/
def execNoEye (e : EngineId) (s : State) : Host.Outcome State Fault Refusal :=
  .next (s.onRequest e fun c q => if q = .noEye then s.endFailed e c .noEye else s)

/-- FAILURE_OPERATION. -/
def execFailureOperation (e : EngineId) (s : State) : Host.Outcome State Fault Refusal :=
  .next (s.onRequest e fun c q =>
    match q with
    | .failure o => s.endFailed e c o
    | .reserve | .commit | .noEye => s)

end Sys2Proof.Machine
end

