-- ==== Sys2Proof/Machine/Transmission.lean ====
section
/-! DEFINITION. Frames leaving SBOn and held-back frames (R66, R72, R125, R146). -/

namespace Sys2Proof.Machine

/-- The trial id of a BEGIN or TRIAL. -/
def OutFrame.trialId : OutFrame → Option Byte
  | .beginTraining _ id => some id
  | .trial id _ _ => some id
  | .welcome _ _ | .answer _ _ _ _ | .record _ _ | .notice _ _ _ | .endTraining _ _ _ | .nak
  | .hold => none

/-- The transmission of the head of the output list is complete: the frame is removed and the next
one is started, none of its bits having left; each place a held-back frame waits for is one nearer
the head (R72). A frame that DISABLE_PORT left on the line ends first (R66, log 14). -/
def Port.frameSent (x : Port) : Port :=
  if x.finishing.isSome then { x with finishing := none, sent := 0 }.startTx
  else
    let left : Port := { x.startTx with
      tx := none, sent := 0, heldBack := x.heldBack.map fun h => { h with waits := h.waits - 1 } }
    left.startTx

/-- The frame whose last character leaves next. -/
def Port.leavingFrame (x : Port) : Option OutEntry :=
  if x.finishing.isSome then x.finishing else x.startTx.tx

/-- The completion report of the BEGIN or TRIAL with id `id` reaches engine `e`: the trial timer
starts if the frame is the outstanding one, and the next TRIAL is placed if its response was taken
already (R125, R146). -/
def State.reportSent (s : State) (e : EngineId) (id : Byte) : State :=
  match (s.engine e).ctx with
  | none => s
  | some c =>
    if c.leaving ≠ some id then s
    else
      let c := { c with leaving := none }
      if c.outstanding = some id then
        s.setCtx e (some { c with timer := some ⟨s.now, ms s.trialTimeout⟩ })
      else s.proceed e c

/-- The last character of a frame leaves SBOn (R72). -/
def State.frameSent (s : State) (p : PortId) : State :=
  let t := s.modPort p Port.frameSent
  match (s.port p).leavingFrame with
  | none => s
  | some entry =>
    match (s.port p).finishing, entry.owner, entry.frame.trialId with
    | none, some e, some id => t.reportSent e id
    | _, _, _ => t

/-! ### Meanings -/

/-- FRAME_SENT. -/
def execFrameSent (p : PortId) (s : State) : Host.Outcome State Fault Refusal := .next (s.frameSent p)

/-- DEFERRED_FRAME_PLACEMENT. -/
def execDeferredFramePlacement (p : PortId) (s : State) : Host.Outcome State Fault Refusal :=
  .next (s.modPort p Port.placeHeld)

end Sys2Proof.Machine
end

