-- ==== Sys2Proof/Machine/Dispatch.lean ====
section
/-! DEFINITION. One arm per command, each a call of its meaning. -/

namespace Sys2Proof.Machine

def exec (i : Instr) (s : State) : Host.Outcome State Fault Refusal :=
  match i with
  | .hardwareReset => Sys2Proof.Machine.execHardwareReset s
  | .softReset alert => Sys2Proof.Machine.execSoftReset alert s
  | .alertEnableWrite alert => Sys2Proof.Machine.execAlertEnableWrite alert s
  | .eventsWrite v => Sys2Proof.Machine.execEventsWrite v s
  | .eventEnWrite v => Sys2Proof.Machine.execEventEnWrite v s
  | .registerWrite addr v => Sys2Proof.Machine.execRegisterWrite addr v s
  | .trwWrite v => Sys2Proof.Machine.execTrwWrite v s
  | .windowLimitWrite v => Sys2Proof.Machine.execWindowLimitWrite v s
  | .spaceAnyWrite v => Sys2Proof.Machine.execSpaceAnyWrite v s
  | .spaceGroupWrite v => Sys2Proof.Machine.execSpaceGroupWrite v s
  | .trialTimeoutWrite v => Sys2Proof.Machine.execTrialTimeoutWrite v s
  | .freshTimeWrite v => Sys2Proof.Machine.execFreshTimeWrite v s
  | .driftBudgetWrite c v => Sys2Proof.Machine.execDriftBudgetWrite c v s
  | .ageLimitWrite c high => Sys2Proof.Machine.execAgeLimitWrite c high s
  | .trimLimitWrite c v => Sys2Proof.Machine.execTrimLimitWrite c v s
  | .errorPolicyWrite p v => Sys2Proof.Machine.execErrorPolicyWrite p v s
  | .autotrainWrite p v => Sys2Proof.Machine.execAutotrainWrite p v s
  | .patternWordWrite w high => Sys2Proof.Machine.execPatternWordWrite w high s
  | .commandStart code => Sys2Proof.Machine.execCommandStart code s
  | .readRecord => Sys2Proof.Machine.execReadRecord s
  | .preloadRecord => Sys2Proof.Machine.execPreloadRecord s
  | .retireRecord => Sys2Proof.Machine.execRetireRecord s
  | .pin => Sys2Proof.Machine.execPin s
  | .unpin => Sys2Proof.Machine.execUnpin s
  | .queueTraining => Sys2Proof.Machine.execQueueTraining s
  | .cancelTraining => Sys2Proof.Machine.execCancelTraining s
  | .enablePort => Sys2Proof.Machine.execEnablePort s
  | .disablePort => Sys2Proof.Machine.execDisablePort s
  | .clearHold => Sys2Proof.Machine.execClearHold s
  | .setProfile => Sys2Proof.Machine.execSetProfile s
  | .getProfile => Sys2Proof.Machine.execGetProfile s
  | .listRecords => Sys2Proof.Machine.execListRecords s
  | .listQueue => Sys2Proof.Machine.execListQueue s
  | .hello p tag payload => Sys2Proof.Machine.execHello p tag payload s
  | .temp p tag payload => Sys2Proof.Machine.execTemp p tag payload s
  | .autoRequest => Sys2Proof.Machine.execAutoRequest s
  | .lookup p tag payload => Sys2Proof.Machine.execLookup p tag payload s
  | .applied p tag payload => Sys2Proof.Machine.execApplied p tag payload s
  | .trim p tag payload => Sys2Proof.Machine.execTrim p tag payload s
  | .train p tag payload => Sys2Proof.Machine.execTrain p tag payload s
  | .retire p tag payload => Sys2Proof.Machine.execRetire p tag payload s
  | .park p tag payload => Sys2Proof.Machine.execPark p tag payload s
  | .wake p tag payload => Sys2Proof.Machine.execWake p tag payload s
  | .resync p tag payload => Sys2Proof.Machine.execResync p tag payload s
  | .ready p tag payload => Sys2Proof.Machine.execReady p tag payload s
  | .result p tag payload => Sys2Proof.Machine.execResult p tag payload s
  | .badFrame p cause => Sys2Proof.Machine.execBadFrame p cause s
  | .lookupService p => Sys2Proof.Machine.execLookupService p s
  | .appliedService p => Sys2Proof.Machine.execAppliedService p s
  | .trimService p => Sys2Proof.Machine.execTrimService p s
  | .retireService p => Sys2Proof.Machine.execRetireService p s
  | .trainService p => Sys2Proof.Machine.execTrainService p s
  | .parkService p => Sys2Proof.Machine.execParkService p s
  | .frameSent p => Sys2Proof.Machine.execFrameSent p s
  | .deferredFramePlacement p => Sys2Proof.Machine.execDeferredFramePlacement p s
  | .freshnessExpiry p => Sys2Proof.Machine.execFreshnessExpiry p s
  | .ageTimerExpiry slot => Sys2Proof.Machine.execAgeTimerExpiry slot s
  | .trialTimerExpiry e => Sys2Proof.Machine.execTrialTimerExpiry e s
  | .temperatureMovementTest e => Sys2Proof.Machine.execTemperatureMovementTest e s
  | .startListDeparture => Sys2Proof.Machine.execStartListDeparture s
  | .spaceAnyExpiry => Sys2Proof.Machine.execSpaceAnyExpiry s
  | .spaceGroupExpiry g => Sys2Proof.Machine.execSpaceGroupExpiry g s
  | .startDecision => Sys2Proof.Machine.execStartDecision s
  | .rescan => Sys2Proof.Machine.execRescan s
  | .reservation e => Sys2Proof.Machine.execReservation e s
  | .commit e => Sys2Proof.Machine.execCommit e s
  | .noEye e => Sys2Proof.Machine.execNoEye e s
  | .failureOperation e => Sys2Proof.Machine.execFailureOperation e s
  | .unknownKindFrame p kind tag payload => Sys2Proof.Machine.execUnknownKindFrame p kind tag payload s
  | .startByteReceived p => Sys2Proof.Machine.execStartByteReceived p s

end Sys2Proof.Machine
end

