-- ==== Sys2Proof/Machine/Step.lean ====
section
/-! DEFINITION. A step: the command at the front of the queue, or one REFCLK period. -/

namespace Sys2Proof.Machine

/-- One REFCLK period passes, and an idle line with a pending frame begins its transmission (log 1,
log 2, log 9). -/
def State.tick (s : State) : State :=
  { s with now := s.now + 1, ports := s.ports.map Port.startTx }

/-- One step: the command at the front of the queue is taken, with the queue's rest left; on an empty
queue a REFCLK period passes (log 2). -/
def step (s : State) : Host.Outcome State Fault Refusal :=
  match s.pending with
  | c :: rest => exec c { s with pending := rest }
  | [] => .next s.tick

/-- `s` with the command that a word of the table spells at the front of its queue; no word spells
one (spec/98_reader.md). -/
def State.withFetchWord (s : State) (nbits w : Nat) : State :=
  match decodeTableWord nbits w with
  | some c => { s with pending := c :: s.pending }
  | none => s

end Sys2Proof.Machine
end

