-- ==== Sys2Proof/Machine/Window.lean ====
section
/-! DEFINITION. What a read of each byte of the register window returns (R171, R193). A read is
a management access, before which an immediate mailbox command is carried out (R174); it changes
nothing else. -/

namespace Sys2Proof.Machine

/-- Byte 0 (low) or 1 of a two-byte register (R189). -/
def byteOf (v : Nat) (high : Bool) : Byte := toByte (if high then v / 256 else v)

/-- The code of a port state (R193). -/
def PortState.code : PortState → Byte
  | .offline => 0
  | .syncing => 1
  | .online => 2
  | .parked => 3
  | .held => 4

/-- A byte of a port's eight registers (R193). -/
def Port.byte (x : Port) (off : Nat) : Byte :=
  if off = 0 then (match x.policy with | .tolerant => 0 | .strict => 1)
  else if off = 1 then toByte (bit x.autotrain)
  else if off = 2 then x.state.code
  else if off = 3 then (match x.temp with | .unknown => 0 | .fresh _ _ => 1)
  else if off = 4 ∨ off = 5 then
    (match x.temp with
      | .unknown => 0
      | .fresh v _ => byteOf (BitVec.ofInt 16 v).toNat (off = 5))
  else if off = 6 then (match x.lastOutcome with | none => 0 | some (o, _) => o.code)
  else (match x.lastOutcome with | none => 0 | some (_, c) => toByte c.val)

/-- A byte of a class's four budget registers (R193). -/
def Budget.byte (b : Budget) (off : Nat) : Byte :=
  if off = 0 then toByte b.drift
  else if off = 1 then byteOf b.ageLimit false
  else if off = 2 then byteOf b.ageLimit true
  else toByte b.trimLimit

/-- A byte of the mailbox registers, 0x0020 to 0x0026 (R172, R193). -/
def State.mailboxByte (s : State) (off : Nat) : Byte :=
  if off = 0 then s.mb.cmd
  else if off = 1 then s.mb.argPort
  else if off = 2 then s.mb.argClass
  else if off = 3 then s.mb.argUrgency
  else if off = 4 then toByte (bit s.busy)
  else if off = 5 then s.mb.result.code
  else toByte (bit s.mb.retired)

/-- A byte of the occupancy registers, 0x0030 to 0x0033 (R1, R3, R103, R193). -/
def State.occupancyByte (s : State) (off : Nat) : Byte :=
  if off = 0 then toByte s.slotsUsed
  else if off = 1 then toByte (Config.laneEntries - s.free)
  else if off = 2 then toByte s.queued.length
  else toByte s.enginesBusy

/-- A byte of the global parameters, 0x0040 to 0x0045 (R168, R193). -/
def State.parameterByte (s : State) (off : Nat) : Byte :=
  if off = 0 then toByte s.trw
  else if off = 1 then toByte s.windowLimit
  else if off = 2 then toByte s.spaceAny
  else if off = 3 then toByte s.spaceGroup
  else if off = 4 then toByte s.trialTimeout
  else toByte s.freshTime

/-- The register byte at an address as it stands: 0x00 where the address holds no register (R171). -/
def State.registerByte (s : State) (a : Nat) : Byte :=
  if a = 0x00 then Config.vendorCode
  else if a = 0x01 then Config.partCode
  else if a = 0x02 then Config.revisionCode
  else if a = 0x10 then toByte (2 * bit s.alertEnable)
  else if a = 0x11 then s.events
  else if a = 0x12 then s.eventEn
  else if 0x20 ≤ a ∧ a < 0x27 then s.mailboxByte (a - 0x20)
  else if 0x30 ≤ a ∧ a < 0x34 then s.occupancyByte (a - 0x30)
  else if 0x40 ≤ a ∧ a < 0x46 then s.parameterByte (a - 0x40)
  else if 0x50 ≤ a ∧ a < 0x60 then
    (s.budget (rowIndex 4 (by decide) ((a - 0x50) / 4))).byte ((a - 0x50) % 4)
  else if 0x60 ≤ a ∧ a < 0x70 then
    byteOf (s.patterns.get (rowIndex 8 (by decide) ((a - 0x60) / 2))).toNat ((a - 0x60) % 2 = 1)
  else if 0x80 ≤ a ∧ a < 0xC0 then
    (s.port (rowIndex 8 (by decide) ((a - 0x80) / 8))).byte ((a - 0x80) % 8)
  else if 0x100 ≤ a ∧ a < 0x160 then s.mb.buffer.read (a - 0x100)
  else 0

/-- What a read access to an address returns (R171, R174). -/
def State.readByte (s : State) (a : Nat) : Byte := s.settle.registerByte a

/-- Whether an address is the lowest of a two-byte register, so that its read captures the next
byte (R171, R193). -/
def isLowByte (a : Nat) : Bool :=
  (0x50 ≤ a && a < 0x60 && a % 4 == 1) || (0x60 ≤ a && a < 0x70 && a % 2 == 0)
  || (0x80 ≤ a && a < 0xC0 && a % 8 == 4)

end Sys2Proof.Machine
end

