-- ==== Sys2Proof/Machine/Frontend.lean ====
section
/-! DEFINITION. From the pins to commands: the characters of a sideband line in both directions (R50,
R51, R53) and the SPI target (R170, R171). An event on a pin changes State, and runs the command of
the table that it completes (log 16). -/

namespace Sys2Proof.Machine

/-! ### Characters (R50) -/

/-- The levels of a character in the order the line carries them: start bit low, eight data bits with
the least significant first, stop bit high (R50). -/
def charLevels (b : Byte) : List Bool := false :: (List.range 8).map b.getLsbD ++ [true]

/-- The byte whose bits are listed with the least significant first. -/
def byteOfLsbFirst (bits : List Bool) : Byte :=
  BitVec.ofNat 8 (bits.foldr (fun b n => bit b + 2 * n) 0)

/-- A character received on SBIn: its eight data bits, and whether its stop bit was high (R50). -/
structure LineChar where
  value : Byte
  stop : Bool
deriving DecidableEq, Repr

/-! ### The sideband receiver (R50, R51, R53) -/

/-- The frame is complete at the byte after kind, tag, length and payload (R51). -/
def frameFull (taken : List Byte) : Bool :=
  match taken with
  | _ :: _ :: n :: payload => payload.length == n.toNat
  | _ => false

/-- The command of a good frame on port `p`, by its kind code (R190). -/
def frameCommand (p : PortId) (kind tag : Byte) (payload : List Byte) : Instr :=
  if kind = 0x01 then .hello p tag payload
  else if kind = 0x02 then .temp p tag payload
  else if kind = 0x03 then .lookup p tag payload
  else if kind = 0x04 then .applied p tag payload
  else if kind = 0x05 then .trim p tag payload
  else if kind = 0x06 then .train p tag payload
  else if kind = 0x07 then .retire p tag payload
  else if kind = 0x08 then .park p tag payload
  else if kind = 0x09 then .wake p tag payload
  else if kind = 0x0A then .ready p tag payload
  else if kind = 0x0B then .result p tag payload
  else if kind = 0x0C then .resync p tag payload
  else .unknownKindFrame p kind tag payload

/-- The command that a frame on port `p` makes at its check byte: `taken` are kind, tag, length and
payload (R51 to R53). -/
def checkedCommand (p : PortId) (taken : List Byte) (check : Byte) : Option Instr :=
  match taken with
  | kind :: tag :: _ :: payload =>
    some (if frameCheck kind tag payload = check then frameCommand p kind tag payload
      else .badFrame p (.check kind tag payload check))
  | _ => none

/-- The command a character makes at port `p`, `taken` being the bytes of the frame in reception; none
where the frame goes on (R51, R53). -/
def frameChar (p : PortId) (taken : List Byte) (c : LineChar) : Option Instr :=
  if !c.stop then some (.badFrame p .stopBit)
  else if frameFull taken then checkedCommand p taken c.value
  else if taken.length = 2 ∧ Config.payloadMax < c.value.toNat then
    some (.badFrame p (.length c.value))
  else none

/-- A character on SBIn of port `p`: nothing at a stopped receiver, a start byte or nothing while
hunting, and a byte of the frame in reception otherwise (R50, R51, R53). -/
def State.takeChar (s : State) (p : PortId) (c : LineChar) : Host.Outcome State Fault Refusal :=
  match (s.port p).rx with
  | .stopped => .next s
  | .hunting => if c.stop ∧ c.value = Config.startByte then exec (.startByteReceived p) s else .next s
  | .inFrame taken =>
    match frameChar p taken c with
    | some i => exec i s
    | none => .next (s.modPort p fun x => { x with rx := .inFrame (taken ++ [c.value]) })

/-- Characters on SBIn of port `p`, in order. -/
def State.takeChars (s : State) (p : PortId) : List LineChar → Host.Outcome State Fault Refusal
  | [] => .next s
  | c :: cs =>
    match s.takeChar p c with
    | .next t => t.takeChars p cs
    | stop => stop

/-- The level of one bit time on SBIn of port `p`: a low level opens a character, eight data bits
follow, and the ninth level is the stop bit (R50, log 29). -/
def State.takeLevel (s : State) (p : PortId) (level : Bool) : Host.Outcome State Fault Refusal :=
  let keep (bits : Option (List Bool)) : State := s.modPort p fun x => { x with char := bits }
  match (s.port p).rx, (s.port p).char with
  | .stopped, _ => .next s
  | _, none => .next (if level then s else keep (some []))
  | _, some bits =>
    if bits.length < 8 then .next (keep (some (bits ++ [level])))
    else (keep none).takeChar p ⟨byteOfLsbFirst bits, level⟩

/-- Levels on SBIn of port `p`, one bit time each, in order. -/
def State.takeLevels (s : State) (p : PortId) : List Bool → Host.Outcome State Fault Refusal
  | [] => .next s
  | level :: levels =>
    match s.takeLevel p level with
    | .next t => t.takeLevels p levels
    | stop => stop

/-! ### The sideband transmitter (R50, R66, R72) -/

/-- The levels of a frame on SBOn, its characters back to back (R50, R51). -/
def OutFrame.levels (f : OutFrame) : List Bool := f.wire.flatMap charLevels

/-- The frame on the line: one completed after DISABLE_PORT, or the head of the output list (R66, R72). -/
def Port.lineFrame (x : Port) : Option OutFrame := (x.finishing.or x.tx).map OutEntry.frame

/-- The level of SBOn: a bit of the frame on the line, otherwise high (R50). -/
def Port.level (x : Port) : Bool :=
  match x.lineFrame with
  | some f => f.levels[x.sent]?.getD true
  | none => true

/-- One bit time passes on SBOn of port `p`: a bit leaves, and FRAME_SENT comes with the last one; an
idle line begins a pending frame (R50, R72, log 9). -/
def State.driveBit (s : State) (p : PortId) : Host.Outcome State Fault Refusal :=
  match (s.port p).lineFrame with
  | none => .next (s.modPort p Port.startTx)
  | some f =>
    if (s.port p).sent + 1 < f.levels.length then
      .next (s.modPort p fun x => { x with sent := x.sent + 1 })
    else exec (.frameSent p) s

/-! ### The SPI target (R170, R171) -/

/-- The instruction a byte names (R193). -/
def toSpiOp (b : Byte) : Option SpiOp :=
  if b = 0x03 then some .read else if b = 0x02 then some .write else none

/-- The command of a write access: the row that owns the address, otherwise REGISTER_WRITE (R193,
log 21). -/
def writeCommand (addr : BitVec 16) (v : Byte) : Instr :=
  let a := addr.toNat
  if a = 0x10 then if v.getLsbD 0 then .softReset (v.getLsbD 1) else .alertEnableWrite (v.getLsbD 1)
  else if a = 0x11 then .eventsWrite v
  else if a = 0x12 then .eventEnWrite v
  else if a = 0x20 then .commandStart v
  else if a = 0x40 then .trwWrite v
  else if a = 0x41 then .windowLimitWrite v
  else if a = 0x42 then .spaceAnyWrite v
  else if a = 0x43 then .spaceGroupWrite v
  else if a = 0x44 then .trialTimeoutWrite v
  else if a = 0x45 then .freshTimeWrite v
  else if 0x50 ≤ a ∧ a < 0x60 ∧ a % 4 = 0 then
    .driftBudgetWrite (rowIndex 4 (by decide) ((a - 0x50) / 4)) v
  else if 0x50 ≤ a ∧ a < 0x60 ∧ a % 4 = 2 then
    .ageLimitWrite (rowIndex 4 (by decide) ((a - 0x50) / 4)) v
  else if 0x50 ≤ a ∧ a < 0x60 ∧ a % 4 = 3 then
    .trimLimitWrite (rowIndex 4 (by decide) ((a - 0x50) / 4)) v
  else if 0x60 ≤ a ∧ a < 0x70 ∧ a % 2 = 1 then
    .patternWordWrite (rowIndex 8 (by decide) ((a - 0x60) / 2)) v
  else if 0x80 ≤ a ∧ a < 0xC0 ∧ a % 8 = 0 then
    .errorPolicyWrite (rowIndex 8 (by decide) ((a - 0x80) / 8)) v
  else if 0x80 ≤ a ∧ a < 0xC0 ∧ a % 8 = 1 then
    .autotrainWrite (rowIndex 8 (by decide) ((a - 0x80) / 8)) v
  else .registerWrite addr v

/-- The bits of a byte, the most significant first (R170). -/
def msbFirst (b : Byte) : List Bool := (List.range 8).map b.getMsbD

/-- The byte whose bits are listed with the most significant first. -/
def byteOfMsbFirst (bits : List Bool) : Byte :=
  BitVec.ofNat 8 (bits.foldl (fun n b => 2 * n + bit b) 0)

/-- The state with a transaction at `phase`, no bit of its present byte sampled. -/
def State.inPhase (s : State) (phase : SpiPhase) : State := { s with spi := some ⟨phase, []⟩ }

/-- The falling edge of CS_N: a transaction begins (R170). -/
def State.csFall (s : State) : State := s.inPhase .instruction

/-- The rising edge of CS_N: the transaction ends, and a byte of fewer than eight bits is discarded
(R170). -/
def State.csRise (s : State) : State := { s with spi := none }

/-- A whole byte of MOSI in a transaction at `phase`. A data byte of a WRITE is one management access
(R170). -/
def State.takeMosi (s : State) (phase : SpiPhase) (v : Byte) : Host.Outcome State Fault Refusal :=
  match phase with
  | .instruction =>
    match toSpiOp v with
    | some op => .next (s.inPhase (.addressHigh op))
    | none => .next (s.inPhase .ignored)
  | .addressHigh op => .next (s.inPhase (.addressLow op v))
  | .addressLow .read high => .next (s.inPhase (.read (high ++ v) none []))
  | .addressLow .write high => .next (s.inPhase (.write (high ++ v)))
  | .write addr => exec (writeCommand addr v) (s.inPhase (.write (addr + 1)))
  | .read _ _ _ | .ignored => .next s

/-- Whether a transaction takes the bits of MOSI: not in the data of a READ, nor once it is ignored
(R170, R187). -/
def SpiPhase.listens : SpiPhase → Bool
  | .instruction | .addressHigh _ | .addressLow _ _ | .write _ => true
  | .read _ _ _ | .ignored => false

/-- The rising edge of SCK: MOSI is sampled, and a byte is taken at its eighth bit; nothing while CS_N
is high (R170). -/
def State.sckRise (s : State) (mosi : Bool) : Host.Outcome State Fault Refusal :=
  match s.spi with
  | none => .next s
  | some x =>
    if !x.phase.listens then .next s
    else if x.sampled.length < 7 then
      .next { s with spi := some { x with sampled := x.sampled ++ [mosi] } }
    else s.takeMosi x.phase (byteOfMsbFirst (x.sampled ++ [mosi]))

/-- Rising edges of SCK with these levels on MOSI, in order. -/
def State.sampleBits (s : State) : List Bool → Host.Outcome State Fault Refusal
  | [] => .next s
  | mosi :: rest =>
    match s.sckRise mosi with
    | .next t => t.sampleBits rest
    | stop => stop

/-- The C8 starts driving the data byte of a READ at `addr`, which is one management access: a capture
is used up, and the lowest byte of a two-byte register captures the next (R170, R171, R174). -/
def State.driveByte (s : State) (addr : BitVec 16) (captured : Option Byte) : State :=
  let a := addr.toNat
  s.settle.inPhase (.read (addr + 1) (if isLowByte a then some (s.readByte (a + 1)) else none)
    (msbFirst (captured.getD (s.readByte a))))

/-- The falling edge of SCK: MISO changes, in a READ to the next bit of the byte driven or to the first
of the next byte; nothing while CS_N is high (R170). -/
def State.sckFall (s : State) : State :=
  match s.spi with
  | some ⟨.read addr captured driving, _⟩ =>
    if driving.length ≤ 1 then s.driveByte addr captured
    else s.inPhase (.read addr captured driving.tail)
  | _ => s

/-- What stands on MISO (R170); `notStated` where no rule gives the level (log 28). -/
inductive Miso where
  | highImpedance
  | level (b : Bool)
  | notStated
deriving DecidableEq, Repr

/-- MISO: high impedance while CS_N is high, a READ's data, low in a WRITE and in an ignored
transaction (R170, log 28). After hardware reset a transaction still under CS_N low is abandoned, and
high impedance there is the model's choice (R188, log 30). -/
def State.miso (s : State) : Miso :=
  match s.spi with
  | none => .highImpedance
  | some x =>
    match x.phase with
    | .read _ _ (b :: _) => .level b
    | .write _ | .ignored | .addressHigh .write | .addressLow .write _ => .level false
    | .instruction | .addressHigh .read | .addressLow .read _ | .read _ _ [] => .notStated

end Sys2Proof.Machine
end

