-- ==== Sys2Proof/Safety.lean ====
section
/-! DEFINITION. The properties of a state that every step keeps, each from the rule that states it. -/

namespace Sys2Proof.Machine

/-! ### The store (chapter 1) -/

/-- The pool is 192 less the lane entries of the slots (R3). -/
def State.PoolBalanced (s : State) : Prop :=
  s.free + (s.slots.rows.map Slot.lanes).sum = Config.laneEntries

/-- Each key has at most one slot (R2). -/
def State.OneSlotPerKey (s : State) : Prop :=
  ∀ i j : SlotId, (s.slot i).key?.isSome → (s.slot i).key? = (s.slot j).key? → i = j

/-- Stamps lie between 1 and the counter, which is at most 16,777,215, and no two records hold the
same one (R12). -/
def State.StampsDistinct (s : State) : Prop :=
  s.stamp ≤ Config.stampMax ∧
  (∀ i : SlotId, ∀ r ∈ (s.slot i).record?, 1 ≤ r.stamp ∧ r.stamp ≤ s.stamp) ∧
  (∀ i j : SlotId, ∀ r ∈ (s.slot i).record?, ∀ q ∈ (s.slot j).record?, r.stamp = q.stamp → i = j)

/-- Generations lie in 1 to 65535, and an applied generation is at most the generation (R4, R7). -/
def State.GenerationsInRange (s : State) : Prop :=
  ∀ i : SlotId, ∀ r ∈ (s.slot i).record?,
    1 ≤ r.gen ∧ r.gen ≤ Config.genMax ∧ (∀ g ∈ r.applied, 1 ≤ g ∧ g ≤ r.gen)

/-! ### Port Units (chapter 3) -/

/-- What holds of one port: a temperature only in ONLINE (R33), the request queue's bound and its
emptiness outside ONLINE (R70), the bad-frame count (R67), the receiver and the lists in OFFLINE (R50,
R57), and no bit sent of a line at rest (R50). -/
def Port.Sound (x : Port) : Prop :=
  (x.temp ≠ .unknown → x.state = .online) ∧
  x.reqs.length ≤ Config.requestDepth ∧
  (x.reqs ≠ [] → x.state = .online) ∧
  x.bad ≤ Config.badLimit ∧
  (x.state = .held ∨ x.state = .offline → x.bad = 0) ∧
  (x.rx = .stopped ↔ x.state = .offline) ∧
  (x.state = .offline → x.char = none ∧ x.tx = none ∧ x.pend = [] ∧ x.heldBack = []) ∧
  (x.tx = none → x.finishing = none → x.sent = 0)

/-- Every port is sound. -/
def State.PortsSound (s : State) : Prop := ∀ p, (s.port p).Sound

/-- The frames waiting at a port that `q` names. -/
def Port.waitingFrames (x : Port) (q : OutFrame → Bool) : Nat :=
  x.pending.countP fun e => q e.frame

/-- A list holds at most 24 frames, at most one NAK and one NOTICE for each class wait, and a held-back
frame waits for a frame that is on the list, or for none any more (R72, R73, R74). -/
def State.ListsBounded (s : State) : Prop :=
  ∀ p, (s.port p).outLen ≤ Config.listDepth ∧ (s.port p).waitingFrames (· == .nak) ≤ 1 ∧
    (∀ c, (s.port p).waitingFrames (OutFrame.isNoticeFor c) ≤ 1) ∧
    ∀ h ∈ (s.port p).heldBack, h.waits ≤ (s.port p).outLen

/-! ### The training queue and the engines (chapter 5) -/

/-- The jobs running, in engine order. -/
def State.running (s : State) : List Job := s.engines.rows.filterMap fun x => x.ctx.map Ctx.job

/-- At most 16 entries, one job for each key, never two running jobs of one port, and URGENT jobs
before ROUTINE ones (R103, R111). -/
def State.QueueSound (s : State) : Prop :=
  s.entriesHeld ≤ Config.queueEntries ∧
  ((s.queued ++ s.running).map Job.key).Nodup ∧
  (s.running.map fun j => j.key.port).Nodup ∧
  s.queued.filter Job.isUrgent ++ s.queued.filter (fun j => !j.isUrgent) = s.queued

/-- Every running job's port is ONLINE and FRESH (R111, R33, R150, R151). -/
def State.RunnersOnline (s : State) : Prop :=
  ∀ e : EngineId, ∀ c ∈ (s.engine e).ctx,
    (s.port c.job.key.port).state = .online ∧ (s.port c.job.key.port).temp ≠ .unknown

/-- A job that waits for a store operation awaits no response and runs no trial timer, and it is in
neither ANNOUNCE nor a sweep (R117, R135, R144, R149). -/
def Ctx.WaitsQuietly (c : Ctx) : Prop :=
  c.request.isSome → c.outstanding = none ∧ c.timer = none ∧ c.phase ≠ .announce ∧ c.sweeping = false

/-- Every running job that waits for the store waits quietly. -/
def State.EnginesQuiet (s : State) : Prop := ∀ e : EngineId, ∀ c ∈ (s.engine e).ctx, c.WaitsQuietly

/-! ### Conditions (chapter 2) -/

/-- A CURRENT record's port is FRESH and the record meets its three budgets (R34). -/
def State.CurrentMeansFit (s : State) : Prop :=
  ∀ i : SlotId, ∀ r ∈ (s.slot i).record?, r.cond = .current →
    match (s.port r.key.port).temp with
    | .fresh v _ => r.fit (s.budget r.key.cls) v = true
    | .unknown => False

/-- The last movement test waiting at an engine for a port. -/
def Engine.lastTest (x : Engine) (p : PortId) : Option Int :=
  ((x.tests.filter fun t => t.port == p).getLast?).map TempTest.v

/-- A running job either waits for a failure or NO_EYE operation, or its port's temperature lies
within half the drift budget of its start temperature, or a test of that temperature still waits at
its engine (R38, R42, R147, R149). -/
def State.MovementWatched (s : State) : Prop :=
  ∀ e : EngineId, ∀ c ∈ (s.engine e).ctx,
    match (s.port c.job.key.port).temp with
    | .fresh v _ =>
      c.failing = true ∨ moved (s.budget c.job.key.cls).drift v c.startTemp = false ∨
        (s.engine e).lastTest c.job.key.port = some v
    | .unknown => False

/-! ### Profiles, records and jobs together (chapters 1, 5 and 8) -/

/-- A lane carries reference fields exactly when `ref` says so. -/
def lanesMatch (ref : Bool) (lanes : List LaneEntry) : Bool := lanes.all fun l => l.ref.isSome == ref

/-- Every slot has its profile's lane count, every record as many lanes, with reference fields exactly
when the profile enables them (R5). -/
def State.RecordsShaped (s : State) : Prop :=
  (∀ i : SlotId, ∀ k ∈ (s.slot i).key?,
    (s.slot i).lanes = (s.profile k).laneCount ∧ s.classEnabled k = true) ∧
  (∀ i : SlotId, ∀ r ∈ (s.slot i).record?,
    r.lanes.length = r.laneCount ∧ lanesMatch (s.profile r.key).refEnable r.lanes = true)

/-- A RESERVED slot's job is running (R19). -/
def State.ReservationsOwned (s : State) : Prop :=
  ∀ i : SlotId, ∀ k ∈ (s.slot i).key?, (s.slot i).record? = none → k ∈ s.running.map Job.key

/-- A running job's profile copy is the profile of its key (R159). -/
def State.CopiesAgree (s : State) : Prop :=
  ∀ e : EngineId, ∀ c ∈ (s.engine e).ctx, c.profile = s.profile c.job.key

/-- A TRIM waiting for an enabled class has one delta for each lane (R54). -/
def State.TrimsShaped (s : State) : Prop :=
  ∀ p, ∀ r ∈ (s.port p).reqs,
    match r.body with
    | .trim c _ deltas => s.classEnabled ⟨p, c⟩ = true → deltas.length = (s.profile ⟨p, c⟩).laneCount
    | .lookup _ | .applied _ _ | .train _ _ | .retire _ | .park => True

/-- A key an enqueue may name: an enabled class of a port that is not OFFLINE (R105). -/
def State.trainable (s : State) (k : Key) : Bool :=
  s.classEnabled k && (s.port k.port).state != .offline

/-- Every job, every AUTO request handed over and every started QUEUE_TRAINING names a trainable key
(R105, R180). -/
def State.JobsTrainable (s : State) : Prop :=
  (∀ j ∈ s.queued ++ s.running, s.trainable j.key = true) ∧
  (∀ k ∈ s.autoReqs, s.trainable k = true) ∧
  (∀ c ∈ s.mb.copy, c.code = 0x06 → ∀ k ∈ c.key, s.trainable k = true)

/-- Records, reservations, jobs and profiles fit together: what keeps the shape of R5 true. -/
def State.Joined (s : State) : Prop :=
  s.OneSlotPerKey ∧ s.QueueSound ∧ s.PortsSound ∧ s.RunnersOnline ∧ s.RecordsShaped ∧
    s.ReservationsOwned ∧ s.CopiesAgree ∧ s.TrimsShaped ∧ s.JobsTrainable

/-- What keeps R34 true: CURRENT records fit, and running jobs are watched. -/
def State.Vouched (s : State) : Prop :=
  s.QueueSound ∧ s.PortsSound ∧ s.EnginesQuiet ∧ s.CurrentMeansFit ∧ s.MovementWatched

/-! ### Parameters and the mailbox (chapters 8 and 9) -/

/-- The parameters of a class lie in their ranges (R40). -/
def Budget.InRange (b : Budget) : Prop :=
  1 ≤ b.drift ∧ b.drift ≤ 63 ∧ b.ageLimit ≤ 1023 ∧ 1 ≤ b.trimLimit ∧ b.trimLimit ≤ 15

/-- Every parameter lies in its range, every profile is valid, and the start list holds at most 8
starts (R40, R112, R113, R158, R162, R167). -/
def State.ParametersInRange (s : State) : Prop :=
  (1 ≤ s.trw ∧ s.trw ≤ 255) ∧ (1 ≤ s.windowLimit ∧ s.windowLimit ≤ 8) ∧
  s.spaceAny ≤ 63 ∧ s.spaceGroup ≤ 63 ∧ (1 ≤ s.trialTimeout ∧ s.trialTimeout ≤ 31) ∧
  (1 ≤ s.freshTime ∧ s.freshTime ≤ 255) ∧ (∀ c, (s.budget c).InRange) ∧
  (∀ k, (s.profile k).valid = true) ∧ s.startList.length ≤ 8

/-- The buffer and the copy taken of it are in canonical form. -/
def State.BufferCanonical (s : State) : Prop :=
  s.mb.buffer.wf = true ∧ ∀ c ∈ s.mb.copy, ∀ m ∈ c.buffer, Memory.wf m = true

/-! ### The words of the statements: what an operation leaves -/

/-- The state with port `p` as a good frame leaves it before it is acted on (R51, R67). -/
def State.framed (s : State) (p : PortId) : State :=
  s.modPort p fun x => { x with rx := .hunting, bad := 0 }

/-- The records that a step from `s` to `t` has turned STALE, as they stand in `t`, in slot order
(R43). -/
def State.turned (s t : State) : List Record :=
  (List.finRange 24).filterMap fun i =>
    (t.slot i).record?.filter fun r' =>
      r'.cond == .stale && (s.slot i).record?.any fun r => r.cond != .stale

/-- A transition into STALE of `r` makes an AUTO request (R45). -/
def State.asksTraining (s : State) (r : Record) : Bool :=
  (s.port r.key.port).autotrain && (s.port r.key.port).state != .offline && !r.holdOff

/-- A transition into STALE of `r` raises STALE_SEEN (R45). -/
def State.seesStale (s : State) (r : Record) : Bool :=
  !(s.port r.key.port).autotrain || (s.port r.key.port).state == .offline

/-- The effects of transitions into STALE, in order: a NOTICE for each applied record of an ONLINE
port, an AUTO request or STALE_SEEN for each record (R43, R44, R45). -/
def State.StaleEffects (s t : State) (turned : List Record) : Prop :=
  (∀ p, t.port p = turned.foldl (fun x r =>
      if r.key.port = p ∧ r.applied.isSome ∧ x.state = .online then
        x.placeNotice r.key.cls .stale r.gen
      else x) (s.port p)) ∧
  t.autoReqs = s.autoReqs ++ (turned.filter s.asksTraining).map Record.key ∧
  t.events = if turned.any s.seesStale then s.events ||| 0x20#8 else s.events

/-- Every record has taken the condition `after` gives it, with the effects of the transitions into
STALE, and no other field of a slot has changed (R35, R41). -/
def State.Evaluated (s t : State) (after : Record → Condition) : Prop :=
  (∀ i, t.slot i = (s.slot i).mapRecord fun r => { r with cond := after r }) ∧
  s.StaleEffects t (s.turned t)

/-- A mailbox command of this code stands and the Arbiter grants the mailbox next (R76, R174). -/
def State.CommandDue (s : State) (c : CmdCopy) (code : Byte) : Prop :=
  s.mb.copy = some c ∧ c.code = code ∧ s.grant = some mailboxRequester

/-- A request stands at the head of port `p`'s queue and the Arbiter grants the port next (R76). -/
def State.RequestDue (s : State) (p : PortId) (tag : Byte) (body : ReqBody) : Prop :=
  (∃ rest, (s.port p).reqs = ⟨tag, body⟩ :: rest) ∧ s.grant = some (portRequester p)

/-- The run of the job on engine `e` has ended: the engine is IDLE with its counter and its waiting
tests kept, the other engine is as it was, and the job's reservation is released (R141 steps 1 to
4, R20). -/
def State.RunEnded (s t : State) (e : EngineId) (k : Key) : Prop :=
  t.engines = s.engines.set e { s.engine e with ctx := none } ∧
  (∀ i, t.slot i = match s.slot i with
    | .reserved k' n => if k' = k then .free else .reserved k' n
    | x => x) ∧
  t.free + (t.slots.rows.map Slot.lanes).sum = s.free + (s.slots.rows.map Slot.lanes).sum

/-- A port whose job's pending BEGIN and TRIAL frames are withdrawn, then END placed and latched
(R139, R141, R142). -/
def Port.ended (x : Port) (cls : ClassId) (o : JobOutcome) (gen : Option Nat) : Port :=
  { x.withdraw.place (plainEntry (.endTraining cls o gen)) with lastOutcome := some (o, cls) }

/-- Training for key `k` removed from `s` leaves `u`: nothing where there is no job, a QUEUED job gone
without END, a RUNNING one aborted CANCELLED; either frees an entry and makes one rescan (R108, R118,
R119, R142). -/
def State.TrainingRemoved (s u : State) (k : Key) : Prop :=
  (s.hasJob k = false → u = s) ∧
  (s.jobQueued k = true → u = { s with
    queued := s.queued.filter fun j => j.key != k, rescans := s.rescans + 1 }) ∧
  (∀ e c, s.runningKey k = some (e, c) →
    u = { s with
      ports := s.ports.set k.port ((s.port k.port).ended k.cls .cancelled none)
      slots := u.slots, free := u.free, engines := u.engines, rescans := s.rescans + 1 } ∧
    s.RunEnded u e k)

/-- The job of context `c` on engine `e`, abandoned, leaves `u`: its run ended, END DEFERRED placed
and latched where `sends` says so, the job at the front of its urgency group with `attempts`, and a
start decision to follow (R107, R141). -/
def State.JobAbandoned (s u : State) (e : EngineId) (c : Ctx) (sends : Bool) (attempts : Nat) : Prop :=
  u = { s with
    ports := s.ports.set c.job.key.port
      (if sends then (s.port c.job.key.port).ended c.job.key.cls .deferred none
      else (s.port c.job.key.port).withdraw)
    slots := u.slots, free := u.free, engines := u.engines
    queued := joinFront { c.job with attempts := attempts } s.queued, decision := true } ∧
  s.RunEnded u e c.job.key

/-- The job on engine `e` ends with an outcome in an END: its run ended, END placed and latched, one
rescan made, and the event flags of `mask` raised (R118, R139). -/
def State.JobEnded (s u : State) (e : EngineId) (k : Key) (o : JobOutcome) (gen : Option Nat)
    (mask : Byte) : Prop :=
  u = { s with
    ports := s.ports.set k.port ((s.port k.port).ended k.cls o gen)
    slots := u.slots, free := u.free, engines := u.engines, rescans := s.rescans + 1
    events := s.events ||| mask } ∧
  s.RunEnded u e k

/-- A QUEUED job is eligible but for an idle engine, and its group's spacing is met, at temperature
`v` (R111, R112). -/
def State.MayStart (s : State) (j : Job) (v : Int) : Prop :=
  (s.port j.key.port).state = .online ∧ (∃ timer, (s.port j.key.port).temp = .fresh v timer) ∧
  (∀ x ∈ s.running, x.key.port ≠ j.key.port) ∧
  ∀ t, s.lastGroup.get (groupOf j.key.port) = some t → t + s.spaceGroup * 25000 ≤ s.now

/-- An engine is idle, and the window and overall spacing tests pass (R111, R112). -/
def State.Admits (s : State) : Prop :=
  ((s.engine 0).ctx = none ∨ (s.engine 1).ctx = none) ∧ s.startList.length < s.windowLimit ∧
  ∀ t, s.lastAny = some t → t + s.spaceAny * 25000 ≤ s.now

/-- The job of context `c` may commit: its port is FRESH, within half the class drift budget of the
start temperature, the budget being counted in half degrees (R38, log 12). -/
def State.MayCommit (s : State) (c : Ctx) : Prop :=
  ∃ v timer, (s.port c.job.key.port).temp = .fresh v timer ∧
    2 * (v - c.startTemp).natAbs ≤ (s.budget c.job.key.cls).drift

/-- What a rescan wants of a record (R109). -/
def State.WantsTraining (s : State) (r : Record) : Bool :=
  r.cond == .stale && !r.holdOff && (s.port r.key.port).state != .offline &&
    (s.port r.key.port).autotrain && !(s.queued ++ s.running).any fun j => j.key == r.key

/-- The mailbox and the ports as the Arbiter counts them: how many places after the pointer a
requester stands (R76). -/
def State.turnsAway (s : State) (r : Requester) : Nat := (r - s.arb).val

/-- What a budget write of class `c` leaves of a record's condition, given the class's parameters
after the write (R41). -/
def State.afterBudget (s : State) (c : ClassId) (b : Budget) (r : Record) : Condition :=
  if r.key.cls = c ∧ r.cond = .current then
    match (s.port r.key.port).temp with
    | .fresh v _ =>
      if (v - r.trained).natAbs ≤ b.drift ∧ (b.ageLimit = 0 ∨ r.age < b.ageLimit) ∧
          ∀ l ∈ r.lanes, l.trim.natAbs ≤ b.trimLimit then .current
      else .stale
    | .unknown => .current
  else r.cond

/-- The parameters of class `c` become `b`, and the class's records are evaluated in the same
operation, nothing else changing but the engines' waiting tests (R40, R41, R43). -/
def State.BudgetTaken (s t : State) (c : ClassId) (b : Budget) : Prop :=
  t = { s with
    budgets := s.budgets.set c b, slots := t.slots, ports := t.ports, autoReqs := t.autoReqs
    events := t.events, engines := t.engines } ∧
  s.Evaluated t (s.afterBudget c b)

/-- The condition a TEMP of `v` gives a record of port `p` (R35). -/
def State.tempCondition (s : State) (p : PortId) (v : Int) (r : Record) : Condition :=
  let drift : Bool := (v - r.trained).natAbs ≤ (s.budget r.key.cls).drift
  let age : Bool := (s.budget r.key.cls).ageLimit = 0 ∨ r.age < (s.budget r.key.cls).ageLimit
  let trim : Bool := ∀ l ∈ r.lanes, l.trim.natAbs ≤ (s.budget r.key.cls).trimLimit
  if r.key.port = p then
    match r.cond with
    | .current => if drift then .current else .stale
    | .dormant => if drift && age && trim then .current else .stale
    | .stale => .stale
  else r.cond

/-- A request frame in ONLINE joins the queue, or is answered REQUESTS_FULL; in SYNCING and PARKED it
is answered NOT_ONLINE (R58, R61, R70). -/
def State.Queues (s : State) (p : PortId) (tag : Byte) (i : Instr) (body : ReqBody) : Prop :=
  ((s.port p).state = .online → (s.port p).reqs.length < 4 → exec i s =
    .next { s with ports := s.ports.set p { s.port p with
      rx := .hunting, bad := 0, reqs := (s.port p).reqs ++ [⟨tag, body⟩] } }) ∧
  ((s.port p).state = .online → 4 ≤ (s.port p).reqs.length → exec i s =
    .next ((s.framed p).answerAtOnce p tag .requestsFull)) ∧
  ((s.port p).state = .syncing ∨ (s.port p).state = .parked → exec i s =
    .next ((s.framed p).answerAtOnce p tag .notOnline))

/-- One bit of the check register's left shift, as the generator polynomial says (R52). -/
def shiftOnce (v : Byte) : Byte :=
  BitVec.ofNat 8 (2 * v.toNat) ^^^ (if 128 ≤ v.toNat then 0x07#8 else 0#8)

/-- Every setting from `a` on, `n` of them, passes. -/
def PassRun (passes : List Bool) (a n : Nat) : Prop :=
  a + n ≤ passes.length ∧ ∀ j < n, passes[a + j]? = some true

end Sys2Proof.Machine
end

