-- ==== Sys2Proof/Certificates/Slice0/Obligations.lean ====
section
/-! DEFINITION. The statements for the provers. Every one is about `exec` or `step`, or about a
function a meaning calls, and says in its docstring which rules it rests on. -/

open Sys2Proof Sys2Proof.Machine

/-! ### The queue of commands -/

/-- O1. A step takes the command at the front of the queue, with the queue's rest left. -/
def Obligations.StepTakesFrontCommand : Prop :=
  ∀ (c : Instr) (rest : List Instr) (s : State), s.pending = c :: rest →
    step s = exec c { s with pending := rest }

/-- O2. On an empty queue one REFCLK period passes, and on every idle line the head of the output
list begins transmission; nothing else changes (the model's choice, logs 2 and 9). -/
def Obligations.StepOnEmptyQueue : Prop :=
  ∀ s : State, s.pending = [] → ∃ t, step s = .next t ∧
    t = { s with now := s.now + 1, ports := t.ports } ∧
    ∀ p, t.port p =
      if (s.port p).tx = none ∧ (s.port p).finishing = none then
        { s.port p with tx := (s.port p).pend.head?, pend := (s.port p).pend.tail }
      else s.port p

/-- O3. Every command completes in every state, and leaves the queue of commands alone (log 17). -/
def Obligations.EveryCommandCompletes : Prop :=
  ∀ (c : Instr) (s : State), ∃ t, exec c s = .next t ∧ t.pending = s.pending

/-! ### Resets -/

/-- O4. What hardware reset leaves (R28, R48, R78, R121; with R140, R158, R169, R188). -/
def Obligations.HardwareResetState : Prop :=
  ∀ s : State, ∃ t, exec .hardwareReset s = .next t ∧ t.pending = s.pending ∧
    (∀ i, t.slot i = .free) ∧ (∀ k, t.slotOf k = none) ∧ t.free = 192 ∧ t.stamp = 0 ∧
    (∀ n ≤ 192, t.allocate n = some (0, t)) ∧ t.advanceStamp.stamp = 1 ∧
    t.readByte 0x30 = 0 ∧ t.readByte 0x31 = 0 ∧ t.readByte 0x32 = 0 ∧ t.readByte 0x33 = 0 ∧
    (∀ p, t.port p =
      { state := .offline, rx := .stopped, char := none, bad := 0, policy := .tolerant
        autotrain := false, temp := .unknown, reqs := [], tx := none, pend := [], heldBack := []
        finishing := none, sent := 0, lastOutcome := none }) ∧
    t.arb = 0 ∧
    (t.budgets.rows.map fun b => (b.drift, b.ageLimit, b.trimLimit, b.ageHeld)) =
      [(20, 240, 8, none), (16, 120, 8, none), (12, 60, 8, none), (8, 30, 8, none)] ∧
    t.freshTime = 10 ∧ t.trialTimeout = 2 ∧
    t.queued = [] ∧ (∀ e, t.engine e = { nextId := 0, ctx := none, tests := [] }) ∧
    t.startList = [] ∧ t.lastAny = none ∧ (∀ g, t.lastGroup.get g = none) ∧
    t.spaceAnyTimer = none ∧ (∀ g, t.spaceGroupTimer.get g = none) ∧
    t.trw = 20 ∧ t.windowLimit = 4 ∧ t.spaceAny = 1 ∧ t.spaceGroup = 4 ∧
    t.rescans = 0 ∧ t.autoReqs = [] ∧ t.decision = false ∧
    (∀ k, t.profile k =
      { laneCount := 0, refEnable := false, defaultRef := 16, passThreshold := 0, minWidth := 6
        goodWidth := 12, minRefWidth := 4, goodRefWidth := 8, baseWord := 0, arrangement := .common
        advance := false }) ∧
    t.patterns.rows = [0xA5C3, 0x3C96, 0xF00F, 0x6B2D, 0x8E71, 0x1F1F, 0xD24B, 0x0000] ∧
    (∀ w, t.patternHeld.get w = none) ∧
    t.mb = { cmd := 0, argPort := 0, argClass := 0, argUrgency := 0, result := .none
             retired := false, buffer := [], copy := none } ∧
    t.spi = none ∧ t.events = 0 ∧ t.eventEn = 0 ∧ t.alertEnable = false ∧ t.alertLow = false

/-- O5. What soft reset leaves, and what it keeps (R29, R49, R79, R122; with R140, R160, R169, R187,
R188). An immediate mailbox command still to be carried out comes first (R174, log 7). -/
def Obligations.SoftResetState : Prop :=
  ∀ (alert : Bool) (s : State), ∃ t, exec (.softReset alert) s = .next t ∧
    t.pending = s.pending ∧ t.now = s.settle.now ∧
    (∀ i, t.slot i = .free) ∧ (∀ k, t.slotOf k = none) ∧ t.free = 192 ∧ t.stamp = 0 ∧
    (∀ p, t.port p =
      { state := .offline, rx := .stopped, char := none, bad := 0
        policy := (s.settle.port p).policy, autotrain := (s.settle.port p).autotrain
        temp := .unknown, reqs := [], tx := none, pend := [], heldBack := [], finishing := none
        sent := 0, lastOutcome := none }) ∧
    t.arb = 0 ∧ t.queued = [] ∧ (∀ e, t.engine e = { nextId := 0, ctx := none, tests := [] }) ∧
    t.startList = [] ∧ t.lastAny = none ∧ (∀ g, t.lastGroup.get g = none) ∧
    t.spaceAnyTimer = none ∧ (∀ g, t.spaceGroupTimer.get g = none) ∧
    t.rescans = 0 ∧ t.autoReqs = [] ∧ t.decision = false ∧
    (∀ c, t.budget c = { s.settle.budget c with ageHeld := none }) ∧
    t.freshTime = s.settle.freshTime ∧ t.trialTimeout = s.settle.trialTimeout ∧
    t.trw = s.settle.trw ∧ t.windowLimit = s.settle.windowLimit ∧
    t.spaceAny = s.settle.spaceAny ∧ t.spaceGroup = s.settle.spaceGroup ∧
    t.profiles = s.settle.profiles ∧ t.patterns = s.settle.patterns ∧
    (∀ w, t.patternHeld.get w = none) ∧
    t.mb = { s.settle.mb with cmd := 0, result := .none, retired := false, copy := none } ∧
    t.spi = s.spi.map (fun _ => ⟨.ignored, []⟩) ∧
    t.events = 0 ∧ t.eventEn = s.settle.eventEn ∧ t.alertEnable = alert ∧ t.alertLow = false

/-! ### Register writes -/

/-- O6. Register accesses: a write does the same whichever row carries it, a read finds an immediate
mailbox command carried out (R174), and the SPI target makes both (R170, R171, R193, logs 7, 16, 21):
a transaction from CS_N's fall to its rise, bytes most significant bit first, each data byte one
access at consecutive addresses, MISO as R170 states it. Where no transaction is in progress MISO is at
high impedance: R170's for CS_N high, the model's choice on a transaction that hardware reset has
abandoned (log 30). -/
def Obligations.RegisterAccesses : Prop :=
  (∀ (addr : BitVec 16) (v : Byte) (s : State),
    exec (writeCommand addr v) s = exec (.registerWrite addr v) s) ∧
  (∀ (s : State) (a : Nat), s.readByte a = s.settle.registerByte a) ∧
  (∀ (s : State) (c : CmdCopy), s.mb.copy = some c → s.readByte 0x24 =
    if c.code ∈ [0x08#8, 0x0A, 0x0C, 0x0E] then 0 else 1) ∧
  (∀ (s : State) (phase : SpiPhase), s.inPhase phase = { s with spi := some ⟨phase, []⟩ } ∧
    s.csFall = s.inPhase .instruction ∧ s.csRise = { s with spi := none }) ∧
  (∀ s : State, s.spi = none → s.miso = .highImpedance ∧ s.sckFall = s ∧
    ∀ mosi, s.sckRise mosi = .next s) ∧
  (∀ (s : State) (phase : SpiPhase) (v : Byte), s.spi = some ⟨phase, []⟩ → phase.listens = true →
    s.sckFall = s ∧ s.sampleBits [v.getMsbD 0, v.getMsbD 1, v.getMsbD 2, v.getMsbD 3, v.getMsbD 4,
      v.getMsbD 5, v.getMsbD 6, v.getMsbD 7] = s.takeMosi phase v) ∧
  (∀ (s : State) (phase : SpiPhase) (bits : List Bool), s.spi = some ⟨phase, []⟩ →
    phase.listens = true → bits.length < 8 →
    ∃ t, s.sampleBits bits = .next t ∧ t.csRise = { s with spi := none }) ∧
  (∀ (s : State) (v high low : Byte) (op : SpiOp),
    s.takeMosi .instruction v = .next (s.inPhase (
      if v = 0x03 then .addressHigh .read else if v = 0x02 then .addressHigh .write
      else .ignored)) ∧
    s.takeMosi (.addressHigh op) high = .next (s.inPhase (.addressLow op high)) ∧
    s.takeMosi (.addressLow .read high) low = .next (s.inPhase (.read (high ++ low) none [])) ∧
    s.takeMosi (.addressLow .write high) low = .next (s.inPhase (.write (high ++ low)))) ∧
  (∀ (s : State) (addr : BitVec 16) (v : Byte), s.takeMosi (.write addr) v =
    exec (writeCommand addr v) (s.inPhase (.write (addr + 1)))) ∧
  (∀ (s : State) (addr : BitVec 16) (captured : Option Byte) (driving sampled : List Bool),
    s.spi = some ⟨.read addr captured driving, sampled⟩ →
    (∀ mosi, s.sckRise mosi = .next s) ∧
    (driving.length ≤ 1 → ∀ v : Byte, v = captured.getD (s.readByte addr.toNat) →
      (∀ k < 8, (Nat.iterate State.sckFall (k + 1) s).miso = .level (v.getMsbD k)) ∧
      Nat.iterate State.sckFall 8 s = s.settle.inPhase (.read (addr + 1)
        (if isLowByte addr.toNat then some (s.readByte (addr.toNat + 1)) else none)
        [v.getMsbD 7]))) ∧
  (∀ (s : State) (sampled : List Bool), s.spi = some ⟨.ignored, sampled⟩ →
    s.miso = .level false ∧ s.sckFall = s ∧ ∀ mosi, s.sckRise mosi = .next s) ∧
  (∀ (s : State) (addr : BitVec 16) (sampled : List Bool), s.spi = some ⟨.write addr, sampled⟩ →
    s.miso = .level false)

/-- O7. Writes of EVENTS, EVENT_EN and the ALERT enable, and ALERT_N, which is low exactly while the
ALERT enable is set and some raised flag is enabled (R186, and R185 for the clearing). An immediate
mailbox command still standing is carried out before a write (`settle`: R174, log 7). -/
def Obligations.EventWrites : Prop :=
  (∀ (v : Byte) (s : State),
    exec (.eventsWrite v) s = .next { s.settle with events := s.settle.events &&& ~~~v }) ∧
  (∀ (v : Byte) (s : State), exec (.eventEnWrite v) s = .next { s.settle with eventEn := v }) ∧
  (∀ (alert : Bool) (s : State),
    exec (.alertEnableWrite alert) s = .next { s.settle with alertEnable := alert }) ∧
  (∀ s : State, s.alertLow = true ↔
    s.alertEnable = true ∧ ∃ i < 8, s.events.getLsbD i = true ∧ s.eventEn.getLsbD i = true) ∧
  (∀ (s : State) (f : EventFlag) (i : Nat),
    (s.raise f).events.getLsbD i = (s.events.getLsbD i || i == f.bit))

/-- O8. REGISTER_WRITE at the registers without a row of their own: the mailbox arguments, the buffer,
and the held low bytes; a write anywhere outside the writable bytes of the map is ignored (R171, R193). -/
def Obligations.RegisterWrites : Prop :=
  ∀ (a : BitVec 16) (v : Byte) (s : State),
    (a = 0x21 → exec (.registerWrite a v) s =
      .next { s.settle with mb := { s.settle.mb with argPort := v } }) ∧
    (a = 0x22 → exec (.registerWrite a v) s =
      .next { s.settle with mb := { s.settle.mb with argClass := v } }) ∧
    (a = 0x23 → exec (.registerWrite a v) s =
      .next { s.settle with mb := { s.settle.mb with argUrgency := v } }) ∧
    (∀ c : ClassId, a.toNat = 0x51 + 4 * c.val → exec (.registerWrite a v) s =
      .next { s.settle with
        budgets := s.settle.budgets.set c { s.settle.budget c with ageHeld := some v } }) ∧
    (∀ w : PatternId, a.toNat = 0x60 + 2 * w.val → exec (.registerWrite a v) s =
      .next { s.settle with patternHeld := s.settle.patternHeld.set w (some v) }) ∧
    (0x100 ≤ a.toNat → a.toNat < 0x160 → s.settle.mb.buffer.wf = true →
      ∃ t, exec (.registerWrite a v) s = .next t ∧
      t = { s.settle with mb := { s.settle.mb with buffer := t.mb.buffer } } ∧
      ∀ b, t.mb.buffer.read b = if b = a.toNat - 0x100 then v else s.settle.mb.buffer.read b) ∧
    ((a.toNat < 0x10 ∨ (0x13 ≤ a.toNat ∧ a.toNat < 0x20) ∨ (0x24 ≤ a.toNat ∧ a.toNat < 0x40) ∨
        (0x46 ≤ a.toNat ∧ a.toNat < 0x50) ∨ (0x70 ≤ a.toNat ∧ a.toNat < 0x80) ∨
        (0x80 ≤ a.toNat ∧ a.toNat < 0xC0 ∧ 2 ≤ a.toNat % 8) ∨
        (0xC0 ≤ a.toNat ∧ a.toNat < 0x100) ∨ 0x160 ≤ a.toNat) →
      exec (.registerWrite a v) s = .next s.settle)

/-- O9. The six global parameters: a value in range replaces the parameter, a value out of range is
ignored (R114, R167, R168). Timers of the sweep engines and of the ports keep their periods. -/
def Obligations.ParameterWrites : Prop :=
  ∀ (v : Byte) (s : State),
    (exec (.trwWrite v) s = .next (if 1 ≤ v.toNat then
      { s.settle with
        trw := v.toNat, decision := true
        startList := s.settle.startList.filter fun t => s.settle.now < t + v.toNat * 25000 }
      else s.settle)) ∧
    (exec (.windowLimitWrite v) s = .next (if 1 ≤ v.toNat ∧ v.toNat ≤ 8 then
      { s.settle with windowLimit := v.toNat, decision := true } else s.settle)) ∧
    (exec (.spaceAnyWrite v) s = .next (if v.toNat ≤ 63 then
      { s.settle with
        spaceAny := v.toNat, decision := true
        spaceAnyTimer := (s.settle.lastAny.map fun t => t + v.toNat * 25000).filter
          fun m => s.settle.now < m }
      else s.settle)) ∧
    (exec (.spaceGroupWrite v) s = .next (if v.toNat ≤ 63 then
      { s.settle with
        spaceGroup := v.toNat, decision := true
        spaceGroupTimer := s.settle.lastGroup.map fun last =>
          (last.map fun t => t + v.toNat * 25000).filter fun m => s.settle.now < m }
      else s.settle)) ∧
    (exec (.trialTimeoutWrite v) s = .next (if 1 ≤ v.toNat ∧ v.toNat ≤ 31 then
      { s.settle with trialTimeout := v.toNat } else s.settle)) ∧
    (exec (.freshTimeWrite v) s = .next (if 1 ≤ v.toNat then
      { s.settle with freshTime := v.toNat } else s.settle))

/-- O10. Writes of a class parameter (R40, R41, R42, R171): out of range they are ignored; in range
they re-evaluate the class's records, and a drift budget goes to each engine running a job of the
class as a movement test. A held low byte is used up by the high byte of the age limit (log 13). -/
def Obligations.BudgetWrites : Prop :=
  ∀ (c : ClassId) (v : Byte) (s : State),
    (1 ≤ v.toNat ∧ v.toNat ≤ 63 → ∃ t, exec (.driftBudgetWrite c v) s = .next t ∧
      s.settle.BudgetTaken t c { s.settle.budget c with drift := v.toNat } ∧
      ∀ e, t.engine e = { s.settle.engine e with
        tests := (s.settle.engine e).tests ++
          match (s.settle.engine e).ctx with
          | some ctx =>
            (match (s.settle.port ctx.job.key.port).temp with
              | .fresh w _ => if ctx.job.key.cls = c then [⟨ctx.job.key.port, w⟩] else []
              | .unknown => [])
          | none => [] }) ∧
    (¬(1 ≤ v.toNat ∧ v.toNat ≤ 63) → exec (.driftBudgetWrite c v) s = .next s.settle) ∧
    (1 ≤ v.toNat ∧ v.toNat ≤ 15 → ∃ t, exec (.trimLimitWrite c v) s = .next t ∧
      s.settle.BudgetTaken t c { s.settle.budget c with trimLimit := v.toNat } ∧
      t.engines = s.settle.engines) ∧
    (¬(1 ≤ v.toNat ∧ v.toNat ≤ 15) → exec (.trimLimitWrite c v) s = .next s.settle) ∧
    (∀ low : Byte, low = (s.settle.budget c).ageHeld.getD
        (BitVec.ofNat 8 (s.settle.budget c).ageLimit) →
      ((v ++ low : BitVec 16).toNat ≤ 1023 → ∃ t, exec (.ageLimitWrite c v) s = .next t ∧
        s.settle.BudgetTaken t c { s.settle.budget c with
          ageLimit := (v ++ low : BitVec 16).toNat, ageHeld := none } ∧
        t.engines = s.settle.engines) ∧
      (1023 < (v ++ low : BitVec 16).toNat → exec (.ageLimitWrite c v) s =
        .next { s.settle with
          budgets := s.settle.budgets.set c { s.settle.budget c with ageHeld := none } }))

/-- O11. Per-port settings and the Pattern Table (R69, R126, R166, R193): bit 0 of the byte written is
the setting, a write of enabled makes one rescan, and a word takes its held low byte with the high
byte written. -/
def Obligations.SettingWrites : Prop :=
  ∀ (p : PortId) (w : PatternId) (v : Byte) (s : State),
    exec (.errorPolicyWrite p v) s = .next { s.settle with
      ports := s.settle.ports.set p { s.settle.port p with
        policy := if v.getLsbD 0 then .strict else .tolerant } } ∧
    exec (.autotrainWrite p v) s = .next { s.settle with
      ports := s.settle.ports.set p { s.settle.port p with autotrain := v.getLsbD 0 }
      rescans := if v.getLsbD 0 then s.settle.rescans + 1 else s.settle.rescans } ∧
    (∀ low : Byte, s.settle.patternHeld.get w = some low →
      exec (.patternWordWrite w v) s = .next { s.settle with
        patterns := s.settle.patterns.set w (v ++ low)
        patternHeld := s.settle.patternHeld.set w none }) ∧
    (s.settle.patternHeld.get w = none →
      exec (.patternWordWrite w v) s = .next { s.settle with
        patterns := s.settle.patterns.set w
          (v ++ (s.settle.patterns.get w).extractLsb' 0 8)
        patternHeld := s.settle.patternHeld.set w none })

/-! ### The mailbox -/

/-- O12. A write to MB_CMD (R172, R173, R180 to R182). BUSY: MB_REFUSED and nothing else. IDLE: an
unknown code or a failed start check ends the command at once with its result and MB_DONE; otherwise
the copy is taken and the mailbox is BUSY. -/
def Obligations.CommandStarts : Prop :=
  ∀ (code : Byte) (s u : State), u = s.settle →
    (u.mb.copy ≠ none → exec (.commandStart code) s = .next { u with events := u.events ||| 0x80#8 }) ∧
    (u.mb.copy = none →
      ∀ (busy : State) (ended : Status → State),
      busy = { u with mb := { u.mb with
        cmd := code, result := .none, retired := false
        copy := some {
          code := code, port := u.mb.argPort, cls := u.mb.argClass, urgency := u.mb.argUrgency
          buffer := if code = 0x02 ∨ code = 0x0B then some u.mb.buffer else none } } } →
      (∀ r, ended r = { u with
        mb := { u.mb with cmd := code, result := r, retired := false, copy := none }
        events := u.events ||| 0x40#8 }) →
      (code = 0 ∨ 0x0E < code.toNat → exec (.commandStart code) s = .next (ended .badCommand)) ∧
      (code = 0x06 → exec (.commandStart code) s = .next (
        if h : u.mb.argPort.toNat < 8 ∧ u.mb.argClass.toNat < 4 ∧ u.mb.argUrgency.toNat < 2 then
          if (u.port ⟨u.mb.argPort.toNat, h.1⟩).state = .offline then ended .portOffline
          else if u.classEnabled ⟨⟨u.mb.argPort.toNat, h.1⟩, ⟨u.mb.argClass.toNat, h.2.1⟩⟩ then busy
          else ended .classDisabled
        else ended .badValue)) ∧
      (code = 0x07 → exec (.commandStart code) s = .next (
        if u.mb.argPort.toNat < 8 ∧ u.mb.argClass.toNat < 4 then busy else ended .badValue)) ∧
      (code = 0x08 ∨ code = 0x09 ∨ code = 0x0A → exec (.commandStart code) s = .next (
        if u.mb.argPort.toNat < 8 then busy else ended .badValue)) ∧
      (code = 0x01 ∨ code = 0x02 ∨ code = 0x03 ∨ code = 0x04 ∨ code = 0x05 ∨ code = 0x0B ∨
          code = 0x0C ∨ code = 0x0D ∨ code = 0x0E → exec (.commandStart code) s = .next busy))

/-- O13. The commands that wait for nothing: ENABLE_PORT, CLEAR_HOLD, GET_PROFILE and LIST_QUEUE (R57,
R63, R165, R182, R184). ENABLE_PORT starts the receiver hunting afresh, and CLEAR_HOLD leaves a frame
in reception (R51). Each is carried out before any later management access (`settle`: R174, log
7), and is nothing where its code does not stand (log 4). -/
def Obligations.ImmediateCommands : Prop :=
  (∀ s : State, s.mb.copy = none → s.settle = s ∧ exec .enablePort s = .next s ∧
    exec .clearHold s = .next s ∧ exec .getProfile s = .next s ∧ exec .listQueue s = .next s) ∧
  ∀ (s : State) (c : CmdCopy), s.mb.copy = some c →
    (c.code ≠ 0x08 → exec .enablePort s = .next s) ∧
    (c.code ≠ 0x0A → exec .clearHold s = .next s) ∧
    (c.code ≠ 0x0C → exec .getProfile s = .next s) ∧
    (c.code ≠ 0x0E → exec .listQueue s = .next s) ∧
    (c.code ≠ 0x08 ∧ c.code ≠ 0x0A ∧ c.code ≠ 0x0C ∧ c.code ≠ 0x0E → s.settle = s) ∧
    (∀ p : PortId, c.port.toNat = p.val →
      (c.code = 0x08 → exec .enablePort s = .next s.settle ∧
        s.settle = if (s.port p).state = .offline then
          State.endCommand { s with
            ports := s.ports.set p { s.port p with
              state := .syncing, rx := .hunting, char := none, bad := 0, temp := .unknown }
            slots := s.slots.map (Slot.mapRecord (Record.onTempLost p false)), decision := true } .done
          else s.endCommand .wrongState) ∧
      (c.code = 0x0A → exec .clearHold s = .next s.settle ∧
        s.settle = if (s.port p).state = .held then
          State.endCommand { s with
            ports := s.ports.set p { s.port p with
              state := .syncing, bad := 0, temp := .unknown }
            slots := s.slots.map (Slot.mapRecord (Record.onTempLost p false)), decision := true } .done
          else s.endCommand .wrongState)) ∧
    (c.code = 0x0C → exec .getProfile s = .next s.settle ∧
      s.settle = if h : c.port.toNat < 8 ∧ c.cls.toNat < 4 then
        State.endCommand { s with mb := { s.mb with
          buffer := Memory.ofBytes (s.profile ⟨⟨c.port.toNat, h.1⟩, ⟨c.cls.toNat, h.2⟩⟩).bytes } } .done
        else s.endCommand .badValue) ∧
    (c.code = 0x0E → exec .listQueue s = .next s.settle ∧
      s.settle = State.endCommand { s with mb := { s.mb with
        buffer := Memory.ofBytes (
          BitVec.ofNat 8 (s.queued.length + s.running.length) ::
          (match (s.engine 0).ctx with | some c => c.job.entry 1 | none => []) ++
          (match (s.engine 1).ctx with | some c => c.job.entry 2 | none => []) ++
          (s.queued.map fun j => j.entry 0).flatten) } } .done)

/-- O14. DISABLE_PORT (R66, R105, R108, R142, R152, R182), in a state where no two running jobs share a
port and each key has one slot: the port's every list, its temperature, its applied generations and
its jobs go; no other port changes; no END is placed. Two clauses are the model's reading: the AUTO
requests of the port that wait are dropped at the disable (log 5), and the frame on the line is kept
apart from the list while it is completed (log 14). -/
def Obligations.DisablePort : Prop :=
  ∀ (s : State) (c : CmdCopy) (p : PortId), s.QueueSound → s.OneSlotPerKey →
    s.mb.copy = some c → c.code = 0x09 → c.port.toNat = p.val →
    ((s.port p).state = .offline → exec .disablePort s = .next (s.endCommand .wrongState)) ∧
    ((s.port p).state ≠ .offline → ∃ t u : State, exec .disablePort s = .next t ∧
      t = u.endCommand .done ∧
      u = { s with
        ports := s.ports.set p { s.port p with
          state := .offline, rx := .stopped, char := none, bad := 0, temp := .unknown, reqs := []
          tx := none, pend := [], heldBack := []
          finishing := match (s.port p).tx with
            | some f => some { f with owner := none }
            | none => (s.port p).finishing }
        slots := u.slots, free := u.free, engines := u.engines, autoReqs := u.autoReqs
        queued := s.queued.filter fun j => j.key.port != p
        rescans := s.rescans + (s.queued.countP fun j => j.key.port == p) +
          (s.running.countP fun j => j.key.port == p)
        decision := true } ∧
      u.autoReqs = s.autoReqs.filter (fun k => k.port != p) ∧
      (∀ e, u.engine e = { s.engine e with
        ctx := (s.engine e).ctx.filter fun x => x.job.key.port != p }) ∧
      (∀ i, u.slot i = match s.slot i with
        | .reserved k n => if k.port = p ∧ k ∈ s.running.map Job.key then .free else .reserved k n
        | .occupied r => .occupied (if r.key.port = p then
            { r with cond := if r.cond = .current then .dormant else r.cond, applied := none } else r)
        | .free => .free) ∧
      u.free + (u.slots.rows.map Slot.lanes).sum = s.free + (s.slots.rows.map Slot.lanes).sum)

/-- O15. The commands that wait for a grant change nothing until the Arbiter grants the mailbox with
their code standing (R76, R174), and end BAD_VALUE on a port above 7 or a class above 3, with the
pointer moved on (R161, R175, R176, R178, R179). LIST_RECORDS reads no argument (R183). -/
def Obligations.StoreCommandsWait : Prop :=
  ∀ (i : Instr) (code : Byte), (i, code) ∈ [(Instr.readRecord, 0x01#8), (.preloadRecord, 0x02),
      (.retireRecord, 0x03), (.pin, 0x04), (.unpin, 0x05), (.queueTraining, 0x06),
      (.setProfile, 0x0B), (.listRecords, 0x0D)] →
    (∀ s : State, (¬∃ c, s.CommandDue c code) → exec i s = .next s) ∧
    (∀ (s : State) (c : CmdCopy), s.CommandDue c code → i ≠ .listRecords →
      8 ≤ c.port.toNat ∨ 4 ≤ c.cls.toNat →
      exec i s = .next (State.endCommand { s with arb := 0 } .badValue))

/-- O16. READ_RECORD, LIST_RECORDS, PIN and UNPIN at the grant (R10, R175, R179, R183): no stamp is
assigned, and only the buffer, or the pinned flag, and the mailbox's own state change. -/
def Obligations.ReadListPin : Prop :=
  (∀ (s : State) (c : CmdCopy), s.CommandDue c 0x0D → exec .listRecords s =
    .next (State.endCommand { s with arb := 0, mb := { s.mb with
      buffer := Memory.ofBytes (s.slots.rows.map Slot.entry).flatten } } .done)) ∧
  ∀ (s : State) (c : CmdCopy) (k : Key), c.key = some k →
    (s.CommandDue c 0x01 → exec .readRecord s = .next (match s.recordOf k with
      | some (_, r) => State.endCommand { s with arb := 0, mb := { s.mb with
          buffer := Memory.ofBytes (s.snapshot r).bytes } } .done
      | none => State.endCommand { s with arb := 0 } .absent)) ∧
    (s.CommandDue c 0x04 → exec .pin s = .next (match s.recordOf k with
      | some (i, r) => State.endCommand { s with
          arb := 0, slots := s.slots.set i (.occupied { r with pinned := true }) } .done
      | none => State.endCommand { s with arb := 0 } .absent)) ∧
    (s.CommandDue c 0x05 → exec .unpin s = .next (match s.recordOf k with
      | some (i, r) => State.endCommand { s with
          arb := 0, slots := s.slots.set i (.occupied { r with pinned := false }) } .done
      | none => State.endCommand { s with arb := 0 } .absent))

/-- O17. What the buffer formats carry comes back: a profile read out is the profile SET_PROFILE reads
(R165, R192), the lanes of a record read out are the lanes PRELOAD_RECORD reads (R175, R191), and
the entry of each slot stands at four times its number (R183, R192). -/
def Obligations.BufferFormatsRoundTrip : Prop :=
  (∀ p : Profile, p.valid = true → readProfile (Memory.ofBytes p.bytes) = some p) ∧
  (∀ (sn : Snapshot) (limit : Nat) (ref : Bool), sn.lanes.length ≤ 16 → sn.lanes ≠ [] →
    lanesMatch ref sn.lanes = true → sn.lanes.all (preloadLaneOk limit) = true →
    validTemp sn.trained = true → sn.age ≤ 65535 →
    bufferLanes (Memory.ofBytes sn.bytes) = sn.lanes.length ∧
    bufferRef (Memory.ofBytes sn.bytes) = ref ∧
    bufferTrained (Memory.ofBytes sn.bytes) = sn.trained ∧
    bufferAge (Memory.ofBytes sn.bytes) = sn.age ∧
    bufferLaneList (Memory.ofBytes sn.bytes) limit = some sn.lanes) ∧
  (∀ (s : State) (i : SlotId),
    (Memory.ofBytes (s.slots.rows.map Slot.entry).flatten).slice (4 * i.val) 4 = (s.slot i).entry)

/-- O18. SET_PROFILE at the grant (R161, R162, R163, R24, R26), for a key that has no job (a job's port
is not OFFLINE: JobsTrainable): PORT_ENABLED, BAD_VALUE, or the whole profile replaced, the record
retired exactly where the lane count or the reference enable changes. -/
def Obligations.SetProfile : Prop :=
  ∀ (s : State) (c : CmdCopy) (k : Key), s.CommandDue c 0x0B → c.key = some k →
    ((s.port k.port).state ≠ .offline →
      exec .setProfile s = .next (State.endCommand { s with arb := 0 } .portEnabled)) ∧
    ((s.port k.port).state = .offline → readProfile (c.buffer.getD []) = none →
      exec .setProfile s = .next (State.endCommand { s with arb := 0 } .badValue)) ∧
    (∀ p : Profile, (s.port k.port).state = .offline → s.hasJob k = false →
      readProfile (c.buffer.getD []) = some p →
      ∀ t : State, t = { s with
        arb := 0, profiles := s.profiles.set k.port ((s.profiles.get k.port).set k.cls p) } →
      exec .setProfile s = .next (
        match s.recordOf k with
        | some (i, r) =>
          if p.laneCount ≠ (s.profile k).laneCount ∨ p.refEnable ≠ (s.profile k).refEnable then
            State.endCommand { t with
              slots := s.slots.set i .free, free := s.free + r.laneCount } .done true
          else t.endCommand .done
        | none => t.endCommand .done))

/-- O19. The checks of PRELOAD_RECORD, in their order, with the result each failure gives; a failed
check changes nothing but the pointer and the mailbox's own state, and a failed allocation raises
STORE_FULL (R15, R176). -/
def Obligations.PreloadChecks : Prop :=
  ∀ (s : State) (c : CmdCopy) (k : Key) (m : Memory), s.CommandDue c 0x02 → c.key = some k →
    m = c.buffer.getD [] →
    let refused (r : Status) : Prop :=
      exec .preloadRecord s = .next (State.endCommand { s with arb := 0 } r)
    let disabled : Prop := s.classEnabled k = false
    let mismatch : Prop := (m.read 10).toNat % 32 ≠ (s.profile k).laneCount ∨
      (m.read 10).msb ≠ (s.profile k).refEnable
    let badField : Prop :=
      ¬(-128 ≤ (m.read 7 ++ m.read 6 : BitVec 16).toInt ∧
        (m.read 7 ++ m.read 6 : BitVec 16).toInt ≤ 255) ∨
      bufferLaneList m (s.budget k.cls).trimLimit = none
    (disabled → refused .classDisabled) ∧
    (¬disabled → mismatch → refused .laneMismatch) ∧
    (¬disabled → ¬mismatch → badField → refused .badValue) ∧
    (¬disabled → ¬mismatch → ¬badField → s.hasJob k = true → refused .jobPending) ∧
    (¬disabled → ¬mismatch → ¬badField → s.hasJob k = false → s.slotOf k = none →
      s.allocate (s.profile k).laneCount = none →
      exec .preloadRecord s = .next (State.endCommand { s with
        arb := 0, events := s.events ||| 0x04#8 } .storeFull))

/-- O20. What PRELOAD_RECORD writes over a record or into a new slot (R7, R21 to R23, R39, R43 to R45,
R100): the fields from the buffer, the condition of the preload evaluation, NOTICE REPLACED for an
applied record of an ONLINE port, and otherwise the effects of a transition into STALE. -/
def Obligations.PreloadWrites : Prop :=
  ∀ (s : State) (c : CmdCopy) (k : Key) (m : Memory) (lanes : List LaneEntry),
    s.CommandDue c 0x02 → c.key = some k → m = c.buffer.getD [] →
    s.classEnabled k = true → bufferLanes m = (s.profile k).laneCount →
    bufferRef m = (s.profile k).refEnable → validTemp (bufferTrained m) = true →
    bufferLaneList m (s.budget k.cls).trimLimit = some lanes → s.hasJob k = false →
    let cond : Condition := match (s.port k.port).temp with
      | .fresh v _ =>
        if (v - bufferTrained m).natAbs ≤ (s.budget k.cls).drift ∧
            ((s.budget k.cls).ageLimit = 0 ∨ bufferAge m < (s.budget k.cls).ageLimit) ∧
            ∀ l ∈ lanes, l.trim.natAbs ≤ (s.budget k.cls).trimLimit then .current else .stale
      | .unknown =>
        if (s.budget k.cls).ageLimit = 0 ∨ bufferAge m < (s.budget k.cls).ageLimit then .dormant
        else .stale
    (∀ i r, s.recordOf k = some (i, r) → ∃ t u : State, exec .preloadRecord s = .next t ∧
      t = u.endCommand .done ∧
      u = { s with
        arb := 0, slots := u.slots, ports := u.ports, autoReqs := u.autoReqs, events := u.events } ∧
      u.slots = s.slots.set i (.occupied { r with
        cond := cond, gen := if r.gen = 65535 then 1 else r.gen + 1
        applied := if r.gen = 65535 then none else r.applied, origin := .loaded, holdOff := false
        trained := bufferTrained m, age := bufferAge m, lanes := lanes, ageSince := s.now }) ∧
      (r.applied.isSome ∧ (s.port k.port).state = .online →
        u.ports = s.ports.set k.port ((s.port k.port).placeNotice k.cls .replaced
          (if r.gen = 65535 then 1 else r.gen + 1))) ∧
      (¬(r.applied.isSome ∧ (s.port k.port).state = .online) → u.ports = s.ports) ∧
      u.autoReqs = s.autoReqs ++ (if cond = .stale ∧ r.cond ≠ .stale ∧
        (s.port k.port).autotrain = true ∧ (s.port k.port).state ≠ .offline then [k] else []) ∧
      u.events = (if cond = .stale ∧ r.cond ≠ .stale ∧
        ((s.port k.port).autotrain = false ∨ (s.port k.port).state = .offline) then
          s.events ||| 0x20#8 else s.events)) ∧
    (∀ i a, s.slotOf k = none → s.allocate (s.profile k).laneCount = some (i, a) →
      ∃ t u : State, exec .preloadRecord s = .next t ∧ t = u.endCommand .done ∧
      u = { a.advanceStamp with
        arb := 0, slots := u.slots, free := u.free, autoReqs := u.autoReqs, events := u.events } ∧
      u.slots = a.advanceStamp.slots.set i (.occupied {
        key := k, cond := cond, gen := 1, applied := none, origin := .loaded
        trained := bufferTrained m, age := bufferAge m, pinned := false, holdOff := false
        stamp := a.advanceStamp.stamp, laneCount := (s.profile k).laneCount, lanes := lanes
        ageSince := s.now }) ∧
      u.free + (s.profile k).laneCount = a.free ∧
      u.autoReqs = s.autoReqs ++ (if cond = .stale ∧
        (s.port k.port).autotrain = true ∧ (s.port k.port).state ≠ .offline then [k] else []) ∧
      u.events = (if cond = .stale ∧
        ((s.port k.port).autotrain = false ∨ (s.port k.port).state = .offline) then
          a.events ||| 0x20#8 else a.events))

/-- O21. An allocation (R15 to R18): with a FREE slot and entries enough it takes the lowest FREE slot
and evicts nothing; otherwise it evicts a run of candidates from the front of their order, the
shortest that makes room, and fails where none does. Pinned and applied records and records with a
job are never candidates, and the order is STALE, DORMANT, CURRENT, each by stamp. -/
def Obligations.Allocation : Prop :=
  ∀ (s : State) (n : Nat), s.StampsDistinct →
    (∀ i, s.lowestFree = some i → n ≤ s.free → s.allocate n = some (i, s)) ∧
    (s.lowestFree = none ∨ s.free < n →
      ∀ gain : Nat → Nat, (∀ m, gain m = s.free + ((s.candidates.take m).map fun x => x.2.laneCount).sum) →
      ((∀ m, 1 ≤ m → m ≤ s.candidates.length → gain m < n) → s.allocate n = none) ∧
      (∀ m, 1 ≤ m → m ≤ s.candidates.length → n ≤ gain m → (∀ m' < m, 1 ≤ m' → gain m' < n) →
        ∃ i t, s.allocate n = some (i, t) ∧ t.lowestFree = some i ∧ n ≤ t.free ∧
          t = { s with slots := t.slots, free := gain m, events := s.events ||| 0x08#8 } ∧
          ∀ j, t.slot j = if j ∈ (s.candidates.take m).map Prod.fst then .free else s.slot j)) ∧
    (∀ i r, (i, r) ∈ s.candidates ↔ s.slot i = .occupied r ∧ r.pinned = false ∧ r.applied = none ∧
      s.hasJob r.key = false) ∧
    s.candidates.Pairwise fun a b =>
      a.2.cond.rank < b.2.cond.rank ∨ (a.2.cond = b.2.cond ∧ a.2.stamp < b.2.stamp)

/-- O22. RETIRE_RECORD at the grant (R24 to R26, R153, R178): the slot and its lane entries are free
again, NOTICE RETIRED goes before the END of an aborted job, and a key with no record ends ABSENT
with its training removed all the same. -/
def Obligations.RetireRecord : Prop :=
  ∀ (s : State) (c : CmdCopy) (k : Key), s.QueueSound → s.OneSlotPerKey →
    s.CommandDue c 0x03 → c.key = some k →
    (∀ i r, s.recordOf k = some (i, r) → ∃ u : State,
      exec .retireRecord s = .next (u.endCommand .done) ∧
      State.TrainingRemoved { s with
        arb := 0, slots := s.slots.set i .free, free := s.free + r.laneCount
        ports := if r.applied.isSome ∧ (s.port k.port).state = .online then
          s.ports.set k.port ((s.port k.port).placeNotice k.cls .retired r.gen)
        else s.ports } u k) ∧
    (s.recordOf k = none → ∃ u : State,
      exec .retireRecord s = .next (u.endCommand .absent) ∧
      State.TrainingRemoved { s with arb := 0 } u k)

/-! ### Training: enqueue and cancel -/

/-- O23. What an enqueue leaves and answers (R104, R106). -/
def Obligations.Enqueue : Prop :=
  ∀ (s : State) (k : Key) (o : JobOrigin) (u : Urgency),
    (s.jobRunning k = true → s.enqueue k o u = ({ s with decision := true }, .alreadyRunning)) ∧
    (s.jobRunning k = false → s.jobQueued k = false → 16 ≤ s.entriesHeld →
      s.enqueue k o u = ({ s with decision := true }, .trainingFull)) ∧
    (s.jobRunning k = false → s.jobQueued k = false → s.entriesHeld < 16 →
      s.enqueue k o u = ({ s with
        decision := true
        queued := joinTail { key := k, origin := o, urgency := u, attempts := 0 } s.queued }, .queued)) ∧
    (∀ before j after, s.jobRunning k = false → s.QueueSound → j.key = k →
      s.queued = before ++ j :: after →
      let j' : Job := { j with origin := if j.origin = .auto then o else j.origin }
      (u = .urgent → j.urgency = .routine → s.enqueue k o u = ({ s with
        decision := true
        queued := joinTail { j' with urgency := .urgent } (before ++ after) }, .raised)) ∧
      (u = .routine ∨ j.urgency = .urgent → s.enqueue k o u = ({ s with
        decision := true, queued := before ++ j' :: after }, .alreadyQueued))) ∧
    (s.enqueueAuto k = if (s.enqueue k .auto .routine).2 = .trainingFull then
      { (s.enqueue k .auto .routine).1 with events := s.events ||| 0x10#8 }
      else (s.enqueue k .auto .routine).1) ∧
    (∀ (j : Job) (q : List Job), q.filter Job.isUrgent ++ q.filter (fun x => !x.isUrgent) = q →
      (j.urgency = .urgent → joinTail j q =
        q.filter Job.isUrgent ++ [j] ++ q.filter (fun x => !x.isUrgent)) ∧
      (j.urgency = .routine → joinTail j q = q ++ [j]) ∧
      (j.urgency = .urgent → joinFront j q = j :: q) ∧
      (j.urgency = .routine → joinFront j q =
        q.filter Job.isUrgent ++ [j] ++ q.filter (fun x => !x.isUrgent)))

/-- O24. CANCEL_TRAINING (R119, R139, R142, R181), in a state where a key has one job and one slot: a
QUEUED job goes without END; a RUNNING one is aborted CANCELLED, its run ended, END placed and
latched; either frees an entry and makes one rescan; no job ends NO_JOB. -/
def Obligations.CancelTraining : Prop :=
  (∀ s : State, (∀ c ∈ s.mb.copy, c.code ≠ 0x07) → exec .cancelTraining s = .next s) ∧
  ∀ (s : State) (c : CmdCopy), s.mb.copy = some c → c.code = 0x07 →
    (c.key = none → exec .cancelTraining s = .next (s.endCommand .badValue)) ∧
    (∀ k, c.key = some k → s.QueueSound → s.OneSlotPerKey →
      (s.hasJob k = false → exec .cancelTraining s = .next (s.endCommand .noJob)) ∧
      (s.hasJob k = true → ∃ u : State, exec .cancelTraining s = .next (u.endCommand .done) ∧
        s.TrainingRemoved u k))

/-- O25. QUEUE_TRAINING and TRAIN at the grant (R11, R97, R105, R180): the hold-off of the key's record
is cleared, the enqueue is made with the source's origin, and its result is the result or answer,
with the job flags as they stand after it. -/
def Obligations.TrainingAsked : Prop :=
  (∀ (s : State) (c : CmdCopy) (k : Key) (u : Urgency), s.CommandDue c 0x06 → c.key = some k →
    c.urgency = (match u with | .routine => 0 | .urgent => 1) →
    ∀ s' : State, s' = { s with
      arb := 0
      slots := match s.recordOf k with
        | some (i, r) => s.slots.set i (.occupied { r with holdOff := false })
        | none => s.slots } →
    exec .queueTraining s = .next ((s'.enqueue k .management u).1.endCommand
      (s'.enqueue k .management u).2)) ∧
  (∀ (s : State) (c : CmdCopy) (k : Key), s.CommandDue c 0x06 → c.key = some k →
    2 ≤ c.urgency.toNat →
    exec .queueTraining s = .next (State.endCommand { s with arb := 0 } .badValue)) ∧
  (∀ (s : State) (p : PortId) (tag : Byte) (c : ClassId) (u : Urgency),
    s.RequestDue p tag (.train c u) →
    ∀ s' : State, s' = { s.takeHead p with
      slots := match s.recordOf ⟨p, c⟩ with
        | some (i, r) => s.slots.set i (.occupied { r with holdOff := false })
        | none => s.slots } →
    exec (.trainService p) s = .next (
      if s.classEnabled ⟨p, c⟩ then
        let r := s'.enqueue ⟨p, c⟩ .port u
        r.1.answer p tag r.2 none (some (r.1.flags ⟨p, c⟩))
      else (s.takeHead p).answer p tag .classDisabled none none))

/-! ### Frames -/

/-- O26. What happens to a good frame before its kind matters (R54, R57, R63, R67, R190): OFFLINE takes
nothing; HELD ignores all but a RESYNC of length 0; elsewhere a wrong kind, length or field is
MALFORMED, answered at once and neither queued nor counted; at once means dropped where the list
holds 16 frames (R75). A RESULT with no job running is discarded unjudged. -/
def Obligations.FrameChecks : Prop :=
  ∀ (p : PortId) (kind tag : Byte) (payload : List Byte) (s : State),
    let malformed : Prop :=
      exec (frameCommand p kind tag payload) s = .next ((s.framed p).answerAtOnce p tag .malformed)
    ((s.port p).state = .offline → exec (frameCommand p kind tag payload) s = .next s) ∧
    ((s.port p).state = .held → ¬(kind = 0x0C ∧ payload = []) →
      exec (frameCommand p kind tag payload) s =
        .next { s with ports := s.ports.set p { s.port p with rx := .hunting } }) ∧
    ((s.port p).state ≠ .offline → (s.port p).state ≠ .held →
      (kind = 0 ∨ 0x0C < kind.toNat → malformed) ∧
      (kind = 0x01 ∨ kind = 0x03 ∨ kind = 0x07 ∨ kind = 0x0A → payload.length ≠ 1 → malformed) ∧
      (kind = 0x02 ∨ kind = 0x06 → payload.length ≠ 2 → malformed) ∧
      (kind = 0x04 → payload.length ≠ 3 → malformed) ∧
      (kind = 0x08 ∨ kind = 0x09 ∨ kind = 0x0C → payload ≠ [] → malformed) ∧
      (kind = 0x03 ∨ kind = 0x04 ∨ kind = 0x05 ∨ kind = 0x06 ∨ kind = 0x07 →
        (∀ c rest, payload = c :: rest → 4 ≤ c.toNat → malformed)) ∧
      (kind = 0x06 → ∀ c u, payload = [c, u] → 2 ≤ u.toNat → malformed) ∧
      (kind = 0x05 → payload.length < 3 → malformed) ∧
      (kind = 0x05 → ∀ (c : ClassId) g0 g1 ds, payload = BitVec.ofNat 8 c.val :: g0 :: g1 :: ds →
        ((s.profile ⟨p, c⟩).laneCount = 0 → 16 < ds.length → malformed) ∧
        ((s.profile ⟨p, c⟩).laneCount ≠ 0 → ds.length ≠ (s.profile ⟨p, c⟩).laneCount → malformed) ∧
        ((s.profile ⟨p, c⟩).laneCount ≠ 0 → (∃ d ∈ ds, d.toInt < -3 ∨ 3 < d.toInt) → malformed)) ∧
      (kind = 0x0B → (∀ e c, s.runningPort p = some (e, c) →
        payload.length ≠ 1 + c.profile.laneCount → malformed) ∧
        (s.runningPort p = none →
          exec (frameCommand p kind tag payload) s = .next (s.framed p)))) ∧
    (∀ (t : State) (status : Status), t.answerAtOnce p tag status =
      if (t.port p).outLen < 16 then
        let answered := (t.port p).place ⟨.answer tag status none none, none⟩
        { t with ports := t.ports.set p answered }
      else t)

/-- O27. HELLO (R56, R58, R64, R65): in SYNCING, WELCOME and ONLINE, or BAD_VERSION; in ONLINE and
PARKED a restart, which empties the lists, loses the temperature and the applied generations, and
abandons the running job without END. What the abandonment does is O45. -/
def Obligations.Hello : Prop :=
  ∀ (p : PortId) (tag version : Byte) (s : State),
    let welcome : OutFrame :=
      .welcome tag ((s.profiles.get p).rows.map fun x => (x.laneCount, x.refEnable))
    let restarted (answer : OutFrame) : State := State.abandonPort { s with
      ports := s.ports.set p { s.port p with
        rx := .hunting, bad := 0, reqs := [], temp := .unknown, heldBack := []
        pend := [⟨answer, none⟩] }
      slots := s.slots.map (Slot.mapRecord (Record.onTempLost p true)) } p false
    ((s.port p).state = .syncing → version = 1 → exec (.hello p tag [version]) s =
      .next { s with
        ports := s.ports.set p { (s.port p).place ⟨welcome, none⟩ with
          state := .online, rx := .hunting, bad := 0 }
        rescans := s.rescans + 1, decision := true }) ∧
    ((s.port p).state = .syncing → version ≠ 1 → exec (.hello p tag [version]) s =
      .next ((s.framed p).answerAtOnce p tag .badVersion)) ∧
    ((s.port p).state = .online ∨ (s.port p).state = .parked →
      (version = 1 → exec (.hello p tag [version]) s = .next { restarted welcome with
        ports := (restarted welcome).ports.set p { (restarted welcome).port p with state := .online }
        rescans := (restarted welcome).rescans + 1, decision := true }) ∧
      (version ≠ 1 → exec (.hello p tag [version]) s =
        let t := restarted (.answer tag .badVersion none none)
        .next { t with
          ports := t.ports.set p { t.port p with state := .syncing }, decision := true }))

/-- O28. TEMP (R31, R35, R43, R189): in ONLINE a valid temperature makes the port FRESH with a timer of
the present FRESH_TIME, evaluates the port's records, and goes to the engine of the port's job; an
invalid one, or one outside ONLINE, is a good frame and nothing more. -/
def Obligations.Temp : Prop :=
  ∀ (p : PortId) (tag lo hi : Byte) (s : State) (v : Int), v = (hi ++ lo : BitVec 16).toInt →
    ((s.port p).state = .online → -128 ≤ v → v ≤ 255 →
      ∀ s' : State, s' = { s with ports := s.ports.set p { s.port p with
        rx := .hunting, bad := 0, temp := .fresh v ⟨s.now, s.freshTime * 250000⟩ } } →
      ∃ t, exec (.temp p tag [lo, hi]) s = .next t ∧
        t = { s' with
          slots := t.slots, ports := t.ports, autoReqs := t.autoReqs, events := t.events
          decision := true
          engines := match s.runningPort p with
            | some (e, _) => s.engines.set e { s.engine e with
                tests := (s.engine e).tests ++ [⟨p, v⟩] }
            | none => s.engines } ∧
        s'.Evaluated t (s.tempCondition p v)) ∧
    ((s.port p).state = .online → v < -128 ∨ 255 < v →
      exec (.temp p tag [lo, hi]) s = .next (s.framed p)) ∧
    ((s.port p).state = .syncing ∨ (s.port p).state = .parked →
      exec (.temp p tag [lo, hi]) s = .next (s.framed p))

/-- O29. The six port requests, with their fields as received (R54, R55, R58, R61, R70, R189). -/
def Obligations.RequestFrames : Prop :=
  ∀ (p : PortId) (tag : Byte) (s : State) (c : ClassId) (g0 g1 : Byte),
    s.Queues p tag (.lookup p tag [BitVec.ofNat 8 c.val]) (.lookup c) ∧
    s.Queues p tag (.applied p tag [BitVec.ofNat 8 c.val, g0, g1])
      (.applied c (g1 ++ g0 : BitVec 16).toNat) ∧
    (∀ ds : List Byte,
      ((s.profile ⟨p, c⟩).laneCount = 0 ∧ ds.length ≤ 16) ∨
      ((s.profile ⟨p, c⟩).laneCount = ds.length ∧ ds ≠ [] ∧ ∀ d ∈ ds, -3 ≤ d.toInt ∧ d.toInt ≤ 3) →
      s.Queues p tag (.trim p tag (BitVec.ofNat 8 c.val :: g0 :: g1 :: ds))
        (.trim c (g1 ++ g0 : BitVec 16).toNat (ds.map BitVec.toInt))) ∧
    s.Queues p tag (.train p tag [BitVec.ofNat 8 c.val, 0]) (.train c .routine) ∧
    s.Queues p tag (.train p tag [BitVec.ofNat 8 c.val, 1]) (.train c .urgent) ∧
    s.Queues p tag (.retire p tag [BitVec.ofNat 8 c.val]) (.retire c) ∧
    s.Queues p tag (.park p tag []) .park

/-- O30. WAKE and RESYNC (R58, R59, R61, R63): WAKE opens a PARKED port with a DONE that is always
placed; RESYNC of length 0 takes a HELD port to SYNCING; elsewhere RESYNC is discarded. -/
def Obligations.WakeAndResync : Prop :=
  ∀ (p : PortId) (tag : Byte) (s : State),
    ((s.port p).state = .parked → exec (.wake p tag []) s = .next { s with
      ports := s.ports.set p { (s.port p).place ⟨.answer tag .done none none, none⟩ with
        state := .online, rx := .hunting, bad := 0 }
      rescans := s.rescans + 1, decision := true }) ∧
    ((s.port p).state = .online →
      exec (.wake p tag []) s = .next ((s.framed p).answerAtOnce p tag .done)) ∧
    ((s.port p).state = .syncing →
      exec (.wake p tag []) s = .next ((s.framed p).answerAtOnce p tag .notOnline)) ∧
    ((s.port p).state = .held → exec (.resync p tag []) s = .next { s with
      ports := s.ports.set p { s.port p with
        state := .syncing, rx := .hunting, bad := 0, temp := .unknown }
      slots := s.slots.map (Slot.mapRecord (Record.onTempLost p false)), decision := true }) ∧
    ((s.port p).state ≠ .held → (s.port p).state ≠ .offline →
      exec (.resync p tag []) s = .next (s.framed p))

/-- O31. Bad frames under the error policies, and entry into HELD (R53, R62, R67, R68, R69, R74). -/
def Obligations.BadFrames : Prop :=
  ∀ (p : PortId) (cause : BadCause) (s : State), isBad cause = true →
    let held : State := State.abandonPort { s with
      ports := s.ports.set p { s.port p with
        state := .held, rx := .hunting, bad := 0, reqs := [], temp := .unknown, heldBack := []
        pend := [⟨.hold, none⟩] }
      slots := s.slots.map (Slot.mapRecord (Record.onTempLost p false))
      events := s.events ||| 0x01#8 } p false
    ((s.port p).state = .offline → exec (.badFrame p cause) s = .next s) ∧
    ((s.port p).state = .held → exec (.badFrame p cause) s =
      .next { s with ports := s.ports.set p { s.port p with rx := .hunting } }) ∧
    ((s.port p).state ≠ .offline → (s.port p).state ≠ .held →
      ((s.port p).policy = .tolerant → (s.port p).bad < 3 →
        let counted :=
          if ∃ f ∈ (s.port p).pend ++ (s.port p).heldBack.map HeldFrame.entry, f.frame = .nak then s.port p
          else (s.port p).place ⟨.nak, none⟩
        exec (.badFrame p cause) s = .next { s with
          ports := s.ports.set p { counted with rx := .hunting, bad := (s.port p).bad + 1 } }) ∧
      ((s.port p).policy = .strict ∨ 3 ≤ (s.port p).bad →
        exec (.badFrame p cause) s = .next { held with decision := true }))

/-- O32. The frame check (R52): from 0, each byte is combined by exclusive-or and the value shifted left
eight times, each carry followed by an exclusive-or with 0x07; it covers kind, tag, length and
payload; every frame sent ends with it, and a received frame that differs from it is bad. -/
def Obligations.FrameCheck : Prop :=
  crc8 [] = 0 ∧
  (∀ (bytes : List Byte) (b : Byte),
    crc8 (bytes ++ [b]) = Nat.iterate shiftOnce 8 (crc8 bytes ^^^ b)) ∧
  crc8 [0x01, 0x00] = 0x15 ∧
  (∀ f : OutFrame, f.payload.length ≤ 80 → ∃ body : List Byte,
    body = [f.kind, f.tag, BitVec.ofNat 8 f.payload.length] ++ f.payload ∧
    f.wire = [0xC5] ++ body ++ [crc8 body]) ∧
  (∀ (kind tag check : Byte) (payload : List Byte),
    isBad (.check kind tag payload check) = true ↔
      check ≠ crc8 ([kind, tag, BitVec.ofNat 8 payload.length] ++ payload))

/-- O33. The sideband lines (R50, R51, R53). In: a character is a low start bit, eight data bits with
the least significant first and a stop bit; a stopped receiver takes none; the characters of a good
frame make its command; hunting, only a good start byte is taken; a missing stop bit, a length above
80 and a wrong check each make a bad frame at the byte that shows it. Out: the frame on the line
leaves bit by bit, its characters back to back, and otherwise the line rests high. The bit times and
when a pending frame begins are the model's choice (logs 9 and 29). -/
def Obligations.SidebandLines : Prop :=
  (∀ b : Byte, charLevels b = [false, b.getLsbD 0, b.getLsbD 1, b.getLsbD 2, b.getLsbD 3,
    b.getLsbD 4, b.getLsbD 5, b.getLsbD 6, b.getLsbD 7, true]) ∧
  (∀ (p : PortId) (s : State), (s.port p).rx = .stopped →
    (∀ level, s.takeLevel p level = .next s) ∧ ∀ c, s.takeChar p c = .next s) ∧
  (∀ (p : PortId) (s : State) (b : Byte) (stop : Bool),
    (s.port p).rx ≠ .stopped → (s.port p).char = none →
    s.takeLevel p true = .next s ∧
    s.takeLevels p [false, b.getLsbD 0, b.getLsbD 1, b.getLsbD 2, b.getLsbD 3, b.getLsbD 4,
      b.getLsbD 5, b.getLsbD 6, b.getLsbD 7, stop] = s.takeChar p ⟨b, stop⟩) ∧
  (∀ (p : PortId) (s : State) (kind tag : Byte) (payload : List Byte),
    (s.port p).rx = .hunting → payload.length ≤ 80 →
    s.takeChars p (([0xC5, kind, tag, BitVec.ofNat 8 payload.length] ++ payload ++
      [frameCheck kind tag payload]).map fun b => ⟨b, true⟩) =
    exec (frameCommand p kind tag payload) { s with ports := s.ports.set p { s.port p with
      rx := .inFrame ([kind, tag, BitVec.ofNat 8 payload.length] ++ payload) } }) ∧
  (∀ (p : PortId) (s : State), exec (.startByteReceived p) s = .next (
    if (s.port p).rx = .hunting then
      { s with ports := s.ports.set p { s.port p with rx := .inFrame [] } } else s)) ∧
  (∀ (p : PortId) (s : State) (c : LineChar), (s.port p).rx = .hunting →
    ¬(c.value = 0xC5 ∧ c.stop = true) → s.takeChar p c = .next s) ∧
  (∀ (p : PortId) (s : State) (taken : List Byte) (v : Byte), (s.port p).rx = .inFrame taken →
    s.takeChar p ⟨v, false⟩ = exec (.badFrame p .stopBit) s) ∧
  (∀ (p : PortId) (s : State) (kind tag n : Byte), (s.port p).rx = .inFrame [kind, tag] →
    80 < n.toNat → s.takeChar p ⟨n, true⟩ = exec (.badFrame p (.length n)) s) ∧
  (∀ (p : PortId) (s : State) (kind tag check : Byte) (payload : List Byte), payload.length ≤ 80 →
    (s.port p).rx = .inFrame ([kind, tag, BitVec.ofNat 8 payload.length] ++ payload) →
    check ≠ frameCheck kind tag payload →
    s.takeChar p ⟨check, true⟩ = exec (.badFrame p (.check kind tag payload check)) s) ∧
  (∀ x : Port, x.finishing = none → x.tx = none → x.level = true) ∧
  (∀ (p : PortId) (s : State) (e : OutEntry),
    (s.port p).finishing = some e ∨ ((s.port p).finishing = none ∧ (s.port p).tx = some e) →
    (∀ b, (e.frame.wire.flatMap charLevels)[(s.port p).sent]? = some b → (s.port p).level = b) ∧
    ((s.port p).sent + 1 < 10 * e.frame.wire.length → s.driveBit p = .next { s with
      ports := s.ports.set p { s.port p with sent := (s.port p).sent + 1 } }) ∧
    (10 * e.frame.wire.length ≤ (s.port p).sent + 1 → s.driveBit p = exec (.frameSent p) s))

/-- O34. READY and RESULT in ONLINE at the engine running the port's job (R124, R125, R128, R130): taken
when the phase expects them and the id is outstanding, and otherwise discarded; what is taken ends
the trial, and the next TRIAL is placed at once if the previous frame has left. -/
def Obligations.Responses : Prop :=
  ∀ (p : PortId) (tag id : Byte) (s : State) (e : EngineId) (c : Ctx),
    (s.port p).state = .online → s.runningPort p = some (e, c) →
    (c.phase = .announce ∧ c.outstanding = some id → exec (.ready p tag [id]) s =
      .next ((s.framed p).proceed e
        { c with outstanding := none, timer := none, phase := .delaySweep, index := 0 })) ∧
    (¬(c.phase = .announce ∧ c.outstanding = some id) →
      exec (.ready p tag [id]) s = .next (s.framed p)) ∧
    (∀ counts : List Byte, counts.length = c.profile.laneCount →
      ((c.phase = .delaySweep ∨ c.phase = .refSweep) ∧ c.outstanding = some id →
        exec (.result p tag (id :: counts)) s =
          .next ((s.framed p).proceed e (c.takeResult (counts.map BitVec.toNat)))) ∧
      (¬((c.phase = .delaySweep ∨ c.phase = .refSweep) ∧ c.outstanding = some id) →
        exec (.result p tag (id :: counts)) s = .next (s.framed p))) ∧
    (∀ (t : State) (c' : Ctx), c'.sweeping = true → c'.outstanding = none → c'.leaving = none →
      t.proceed e c' = { t with
        engines := t.engines.set e { t.engine e with
          nextId := (t.engine e).nextId + 1
          ctx := some { c' with
            outstanding := some (t.engine e).nextId, leaving := some (t.engine e).nextId
            timer := none, retry := false } }
        ports := t.ports.set c'.job.key.port ((t.port c'.job.key.port).place
          ⟨c'.directive (t.engine e).nextId, some e⟩) }) ∧
    (∀ (t : State) (c' : Ctx),
      ¬(c'.sweeping = true ∧ c'.outstanding = none ∧ c'.leaving = none) →
      t.proceed e c' = { t with engines := t.engines.set e { t.engine e with ctx := some c' } })

/-- O35. A RESULT scores its trial and advances the sweep (R130, R133, R134, R135): every lane's entry at
the trial's setting, the last one included, is written by its count against the threshold, no other
entry changes, and after the last trial the phase that follows is the one the conditions choose. -/
def Obligations.Scoring : Prop :=
  ∀ (c : Ctx) (counts : List Nat), counts.length = c.profile.laneCount →
    (c.phase = .delaySweep → c.index < 63 → c.takeResult counts = { c with
      outstanding := none, timer := none, index := c.index + 1
      delayMap := c.delayMap.mapIdx fun i m =>
        m.set c.index (some (counts.getD i 256 ≤ c.profile.passThreshold)) }) ∧
    (c.phase = .refSweep → c.index < 31 → c.takeResult counts = { c with
      outstanding := none, timer := none, index := c.index + 1
      refMap := c.refMap.mapIdx fun i m =>
        m.set c.index (some ((c.delayEyeOf i).cond ≠ .failed ∧
          counts.getD i 256 ≤ c.profile.passThreshold)) }) ∧
    (c.phase = .delaySweep → c.index = 63 → ∀ d : Ctx, d = { c with
        outstanding := none, timer := none, delayMap := d.delayMap, delayEye := d.delayEye } →
      (d.delayMap = c.delayMap.mapIdx fun i m =>
        m.set 63 (some (counts.getD i 256 ≤ c.profile.passThreshold))) →
      d.delayEye = d.delayMap.map (findEye c.profile.minWidth c.profile.goodWidth) →
      (c.profile.refEnable = true ∧ (∃ x ∈ d.delayEye, x.cond ≠ .failed) →
        c.takeResult counts = { d with phase := .refSweep, index := 0 }) ∧
      (¬(c.profile.refEnable = true ∧ ∃ x ∈ d.delayEye, x.cond ≠ .failed) →
        c.takeResult counts =
          if d.results.all (· == .failed) then { d with phase := .evaluate, request := some .noEye }
          else { d with phase := .commit, request := some .commit })) ∧
    (c.phase = .refSweep → c.index = 31 → ∀ d : Ctx, d = { c with
        outstanding := none, timer := none, refMap := d.refMap, refEye := d.refEye } →
      (d.refMap = c.refMap.mapIdx fun i m => m.set 31 (some ((c.delayEyeOf i).cond ≠ .failed ∧
        counts.getD i 256 ≤ c.profile.passThreshold))) →
      d.refEye = d.refMap.map (findEye c.profile.minRefWidth c.profile.goodRefWidth) →
      c.takeResult counts =
        if d.results.all (· == .failed) then { d with phase := .evaluate, request := some .noEye }
        else { d with phase := .commit, request := some .commit })

/-- O36. The eye of a lane (R131): the longest run of consecutive passing settings, without wrap, the
lowest start among the longest; width 0 where none passes; its centre; and the delay evaluation in
the operation that takes the RESULT of trial 63. -/
def Obligations.EyeIsLongestRun : Prop :=
  ∀ passes : List Bool,
    (∀ a n, longestRun passes = (a, n) → 1 ≤ n →
      PassRun passes a n ∧
      (∀ a' n', 1 ≤ n' → PassRun passes a' n' → n' < n ∨ (n' = n ∧ a ≤ a'))) ∧
    ((longestRun passes).2 = 0 ↔ ∀ x ∈ passes, x = false) ∧
    (∀ e : Eye, 1 ≤ e.width → e.centre = e.start + (e.width - 1) / 2) ∧
    (∀ (minimum good : Nat) (m : List (Option Bool)),
      ((findEye minimum good m).start, (findEye minimum good m).width) =
        longestRun (m.map fun x => x == some true)) ∧
    (∀ (c : Ctx) (counts : List Nat), c.phase = .delaySweep → c.index = 63 →
      (c.takeResult counts).delayEye =
        (c.delayMap.mapIdx fun i m =>
          m.set 63 (some (counts.getD i 256 ≤ c.profile.passThreshold))).map
            (findEye c.profile.minWidth c.profile.goodWidth))

/-- O37. Lane conditions (R132, R134, R135) and the lanes a commit writes (R136). -/
def Obligations.LaneConditions : Prop :=
  (∀ width minimum good : Nat, minimum ≤ good →
    (widthCond width minimum good = .failed ↔ width < minimum) ∧
    (widthCond width minimum good = .marginal ↔ minimum ≤ width ∧ width < good) ∧
    (widthCond width minimum good = .good ↔ good ≤ width)) ∧
  (∀ (d r : LaneCond) (ref : Bool),
    (laneResult ref d r = .failed ↔ d = .failed ∨ (ref = true ∧ r = .failed)) ∧
    (laneResult ref d r = .good ↔ d = .good ∧ (ref = true → r = .good))) ∧
  (∀ (c : Ctx) (old : Option (List LaneEntry)) (i : Nat) (l : LaneEntry),
    (c.commitLanes old)[i]? = some l →
    l.cond = c.laneResultOf i ∧ l.trim = 0 ∧ (l.ref.isSome = c.profile.refEnable) ∧
    (l.cond ≠ .failed → l.tap = (c.delayEyeOf i).centre ∧ l.eyeWidth = (c.delayEyeOf i).width ∧
      ∀ x ∈ l.ref, x.level = (c.refEyeOf i).centre ∧ x.width = (c.refEyeOf i).width) ∧
    (l.cond = .failed → l.eyeWidth = 0 ∧ (∀ x ∈ l.ref, x.width = 0) ∧
      (∀ ls o, old = some ls → ls[i]? = some o → l.tap = o.tap ∧
        ∀ x ∈ l.ref, ∀ y ∈ o.ref, x.level = y.level) ∧
      (old = none → l.tap = 0 ∧ ∀ x ∈ l.ref, x.level = c.profile.defaultRef)))

/-- O38. Stimulus words and the content of a TRIAL (R127, R129, R134). -/
def Obligations.Trials : Prop :=
  (∀ (t : Table 8 Word) (p : Profile) (k i b : Nat), p.baseWord ≤ 7 →
    b = (if p.advance then (p.baseWord + k) % 8 else p.baseWord) →
    (p.arrangement = .common → some (stimulus t p k i) = t.rows[b]?) ∧
    (p.arrangement = .rotate → some (stimulus t p k i) = t.rows[(b + i) % 8]?) ∧
    (p.arrangement = .alternate → some (stimulus t p k i) =
      if i % 2 = 0 then t.rows[b]? else t.rows[b]?.map fun w => w ^^^ 0xFFFF#16)) ∧
  (∀ (c : Ctx) (id : Byte), c.phase = .delaySweep → c.directive id = .trial id .delay
    ((List.range c.profile.laneCount).map fun i =>
      { tap := c.index, word := stimulus c.patterns c.profile c.index i
        ref := if c.profile.refEnable then
          some (match c.prior with
            | some prior => ((prior[i]?).bind PriorLane.ref).getD c.profile.defaultRef
            | none => c.profile.defaultRef) else none })) ∧
  (∀ (c : Ctx) (id : Byte), c.phase = .refSweep → c.directive id = .trial id .reference
    ((List.range c.profile.laneCount).map fun i =>
      { tap := if (c.delayEyeOf i).cond = .failed then 0 else (c.delayEyeOf i).centre
        ref := some c.index, word := stimulus c.patterns c.profile c.index i })) ∧
  (∀ (c : Ctx) (id : Byte), c.phase = .announce → c.directive id = .beginTraining c.job.key.cls id)

/-! ### Services of port requests -/

/-- O39. A service changes nothing unless a request of its kind heads the port's queue and the Arbiter
grants the port (R76, R80); and a request that names a disabled class is answered CLASS_DISABLED,
with the request removed, the pointer moved on and nothing else done (R81). -/
def Obligations.ServicesWait : Prop :=
  ∀ (s : State) (p : PortId),
    ((¬∃ tag c, s.RequestDue p tag (.lookup c)) → exec (.lookupService p) s = .next s) ∧
    ((¬∃ tag c g, s.RequestDue p tag (.applied c g)) → exec (.appliedService p) s = .next s) ∧
    ((¬∃ tag c g ds, s.RequestDue p tag (.trim c g ds)) → exec (.trimService p) s = .next s) ∧
    ((¬∃ tag c, s.RequestDue p tag (.retire c)) → exec (.retireService p) s = .next s) ∧
    ((¬∃ tag c u, s.RequestDue p tag (.train c u)) → exec (.trainService p) s = .next s) ∧
    ((¬∃ tag, s.RequestDue p tag .park) → exec (.parkService p) s = .next s) ∧
    (∀ (tag : Byte) (c : ClassId) (g : Nat) (ds : List Int) (u : Urgency),
      s.classEnabled ⟨p, c⟩ = false →
      ∀ refused : State, refused = { s with
        arb := p.castSucc + 1
        ports := s.ports.set p <| Port.place ⟨.answer tag .classDisabled none none, none⟩
          { s.port p with reqs := (s.port p).reqs.tail } } →
      (s.RequestDue p tag (.lookup c) → exec (.lookupService p) s = .next refused) ∧
      (s.RequestDue p tag (.applied c g) → exec (.appliedService p) s = .next refused) ∧
      (s.RequestDue p tag (.trim c g ds) → exec (.trimService p) s = .next refused) ∧
      (s.RequestDue p tag (.retire c) → exec (.retireService p) s = .next refused) ∧
      (s.RequestDue p tag (.train c u) → exec (.trainService p) s = .next refused)) ∧
    (s.takeHead p = { s with
      arb := p.castSucc + 1
      ports := s.ports.set p { s.port p with reqs := (s.port p).reqs.tail } }) ∧
    (∀ (tag : Byte) (status : Status) (gen : Option Nat) (flags : Option JobFlags),
      s.answer p tag status gen flags = { s with
        ports := s.ports.set p ((s.port p).place ⟨.answer tag status gen flags, none⟩) })

/-- O40. LOOKUP_SERVICE and APPLIED_SERVICE for an enabled class (R6, R83, R85), and the stamp that
each assigns to the record it finds (R12). -/
def Obligations.LookupAndApplied : Prop :=
  (∀ (s : State) (p : PortId) (tag : Byte) (c : ClassId) (g : Nat),
    s.classEnabled ⟨p, c⟩ = true →
    ∀ (t : State) (absent : OutFrame), t = s.takeHead p →
      absent = .answer tag .absent none (some ⟨s.jobQueued ⟨p, c⟩, s.jobRunning ⟨p, c⟩⟩) →
    (s.RequestDue p tag (.lookup c) → exec (.lookupService p) s = .next (
      match s.recordOf ⟨p, c⟩ with
      | some (i, r) => { t.touch i with
          ports := t.ports.set p ((t.port p).place ⟨.record tag (s.snapshot r), none⟩) }
      | none => { t with ports := t.ports.set p ((t.port p).place ⟨absent, none⟩) })) ∧
    (s.RequestDue p tag (.applied c g) → exec (.appliedService p) s = .next (
      match s.recordOf ⟨p, c⟩ with
      | some (i, r) =>
        if g = r.gen then { t.touch i with
          slots := (t.touch i).slots.set i <|
            ((t.touch i).slot i).mapRecord fun x => { x with applied := some g }
          ports := t.ports.set p ((t.port p).place ⟨.answer tag .done (some g) none, none⟩) }
        else { t.touch i with
          ports := t.ports.set p <|
            (t.port p).place ⟨.answer tag .staleGeneration (some r.gen) none, none⟩ }
      | none => { t with ports := t.ports.set p ((t.port p).place ⟨absent, none⟩) }))) ∧
  (∀ (s : State) (r : Record), s.snapshot r = {
    key := r.key, cond := r.cond, gen := r.gen, applied := r.applied, origin := r.origin
    trained := r.trained, age := r.age, pinned := r.pinned, holdOff := r.holdOff
    jobQueued := s.jobQueued r.key, jobRunning := s.jobRunning r.key, lanes := r.lanes }) ∧
  (∀ (s : State) (k : Key), (s.jobQueued k = true ↔ ∃ j ∈ s.queued, j.key = k) ∧
    (s.jobRunning k = true ↔ ∃ j ∈ s.running, j.key = k)) ∧
  (∀ (s : State) (i : SlotId) (r : Record), s.slot i = .occupied r →
    (s.stamp ≠ 16777215 → s.touch i = { s with
      stamp := s.stamp + 1, slots := s.slots.set i (.occupied { r with stamp := s.stamp + 1 }) }) ∧
    (s.stamp = 16777215 → s.StampsDistinct → ∃ (n : Nat) (t : State), s.touch i = t ∧
      n = (s.slots.rows.filterMap Slot.record?).length ∧
      t = { s with stamp := n + 1, slots := t.slots } ∧
      t.slot i = .occupied { r with stamp := n + 1 } ∧
      ∀ j, j ≠ i → t.slot j = (s.slot j).mapRecord fun x => { x with
        stamp := 1 + (s.slots.rows.filterMap Slot.record?).countP fun y => y.stamp < x.stamp }))

/-- O41. TRIM_SERVICE for an enabled class, where each key has one slot (R87 to R92, with R43 to R45
for TRIM_LIMIT): ABSENT; the six checks in their order, each with its refusal; and the trim. -/
def Obligations.TrimService : Prop :=
  ∀ (s : State) (p : PortId) (tag : Byte) (c : ClassId) (g : Nat) (ds : List Int),
    s.RequestDue p tag (.trim c g ds) → s.classEnabled ⟨p, c⟩ = true →
    (s.recordOf ⟨p, c⟩ = none → exec (.trimService p) s = .next
      ((s.takeHead p).answer p tag .absent none (some (s.flags ⟨p, c⟩)))) ∧
    (∀ i r, s.recordOf ⟨p, c⟩ = some (i, r) →
      ∀ (t : State) (fails : (LaneEntry → Int → Prop) → Prop), t = (s.takeHead p).touch i →
      (∀ bad, fails bad ↔ ∃ (j : Nat) (l : LaneEntry) (d : Int),
        r.lanes[j]? = some l ∧ ds[j]? = some d ∧ bad l d) →
      let busy : Prop := s.jobRunning ⟨p, c⟩ = true
      let stale : Prop := g ≠ r.gen
      let unapplied : Prop := r.applied ≠ some r.gen
      let unfit : Prop := r.cond ≠ .current
      let outOfRange : Prop := fails fun l d =>
        (l.cond = .failed ∧ d ≠ 0) ∨ (l.tap : Int) + d < 0 ∨ 63 < (l.tap : Int) + d
      let overLimit : Prop := fails fun l d => (s.budget c).trimLimit < (l.trim + d).natAbs
      (busy → exec (.trimService p) s =
        .next (t.answer p tag .busy (some r.gen) (some (s.flags ⟨p, c⟩)))) ∧
      (¬busy → stale → exec (.trimService p) s =
        .next (t.answer p tag .staleGeneration (some r.gen) none)) ∧
      (¬busy → ¬stale → unapplied → exec (.trimService p) s =
        .next (t.answer p tag .notApplied (some r.gen) none)) ∧
      (¬busy → ¬stale → ¬unapplied → unfit → exec (.trimService p) s =
        .next (t.answer p tag .notCurrent (some r.gen) none)) ∧
      (¬busy → ¬stale → ¬unapplied → ¬unfit → outOfRange → exec (.trimService p) s =
        .next (t.answer p tag .outOfRange (some r.gen) none)) ∧
      (∀ r', t.slot i = .occupied r' →
        ¬busy → ¬stale → ¬unapplied → ¬unfit → ¬outOfRange →
        (overLimit → exec (.trimService p) s = .next { t with
          slots := t.slots.set i (.occupied { r' with cond := .stale })
          ports := t.ports.set p <| Port.placeNotice c .stale r.gen <|
            (t.port p).place ⟨.answer tag .trimLimit (some r.gen) none, none⟩
          autoReqs := if (s.port p).autotrain = true ∧ r.holdOff = false then
            t.autoReqs ++ [⟨p, c⟩] else t.autoReqs
          events := if (s.port p).autotrain = true then t.events else t.events ||| 0x20#8 }) ∧
        (¬overLimit → exec (.trimService p) s = .next { t with
          slots := t.slots.set i (.occupied { r' with
            lanes := List.zipWith (fun (l : LaneEntry) (d : Int) =>
              { l with tap := ((l.tap : Int) + d).toNat, trim := l.trim + d }) r.lanes ds
            gen := if r.gen = 65535 then 1 else r.gen + 1
            applied := some (if r.gen = 65535 then 1 else r.gen + 1) })
          ports := t.ports.set p <| (t.port p).place
            ⟨.answer tag .done (some (if r.gen = 65535 then 1 else r.gen + 1)) none, none⟩ })))

/-- O42. RETIRE_SERVICE for an enabled class and PARK_SERVICE (R25, R60, R94, R95): a pinned record
stays; the ANSWER goes before the END of an aborted job; PARK answers DONE, empties the queue, loses
the temperature and abandons the running job without END. That the DONE of a PARK stands behind the
frames already on the list is the model's choice (R72 over R60's last words, log 31). -/
def Obligations.RetireAndPark : Prop :=
  ∀ (s : State) (p : PortId) (tag : Byte) (c : ClassId), s.QueueSound → s.OneSlotPerKey →
    ∀ t : State, t = s.takeHead p →
    (s.RequestDue p tag (.retire c) → s.classEnabled ⟨p, c⟩ = true →
      (∀ i r, s.recordOf ⟨p, c⟩ = some (i, r) → r.pinned = true →
        exec (.retireService p) s = .next (t.answer p tag .pinned (some r.gen) none)) ∧
      (∀ i r, s.recordOf ⟨p, c⟩ = some (i, r) → r.pinned = false →
        ∃ u : State, exec (.retireService p) s = .next u ∧
          State.TrainingRemoved { t with
            slots := s.slots.set i .free, free := s.free + r.laneCount
            ports := t.ports.set p ((t.port p).place
              ⟨.answer tag .done (some r.gen) none, none⟩) } u ⟨p, c⟩) ∧
      (s.recordOf ⟨p, c⟩ = none → ∃ u : State, exec (.retireService p) s = .next u ∧
        (t.answer p tag .absent none (some ⟨false, false⟩)).TrainingRemoved u ⟨p, c⟩)) ∧
    (s.RequestDue p tag .park →
      ∀ parked : State, parked = { t with
        ports := t.ports.set p { (t.port p).place ⟨.answer tag .done none none, none⟩ with
          state := .parked, reqs := [], temp := .unknown }
        slots := s.slots.map (Slot.mapRecord (Record.onTempLost p false)) } →
      (s.runningPort p = none → exec (.parkService p) s = .next { parked with decision := true }) ∧
      (∀ e x, s.runningPort p = some (e, x) → ∃ u : State, exec (.parkService p) s = .next u ∧
        parked.JobAbandoned u e x false x.job.attempts))

/-! ### Output lists -/

/-- O43. Placing a frame (R72, log 10): at the tail while fewer than 24 frames are listed and none is
held back; on a list of 24, held back until the pending frame nearest the head at that moment, other
than a BEGIN or TRIAL, has been removed, sent or not. A NOTICE removes a pending one for its key
(R73). Held-back frames go in turn, each when the list has room. -/
def Obligations.FramePlacement : Prop :=
  ∀ (x : Port) (e : OutEntry),
    (x.outLen < 24 → x.heldBack = [] → x.place e = { x with pend := x.pend ++ [e] }) ∧
    (x.outLen < 24 → x.heldBack ≠ [] → x.place e = { x with heldBack := x.heldBack ++ [⟨e, 0⟩] }) ∧
    (24 ≤ x.outLen → (∀ f ∈ x.pend, f.frame.isDirective = true) →
      x.place e = { x with heldBack := x.heldBack ++ [⟨e, 0⟩] }) ∧
    (∀ before f after, 24 ≤ x.outLen → x.pend = before ++ f :: after →
      (∀ d ∈ before, d.frame.isDirective = true) → f.frame.isDirective = false →
      x.place e = { x with heldBack := x.heldBack ++
        [⟨e, x.tx.toList.length + before.length + 1⟩] }) ∧
    (∀ c kind gen, x.placeNotice c kind gen =
      (x.removePending (OutFrame.isNoticeFor c)).place ⟨.notice c kind gen, none⟩) ∧
    (∀ drop : OutFrame → Bool, x.removePending drop = { x with
      pend := x.pend.filter fun f => !drop f.frame
      heldBack := (x.heldBack.filter fun h => !drop h.entry.frame).map fun h =>
        ⟨h.entry, x.placeAfter drop h.waits⟩ }) ∧
    (∀ (drop : OutFrame → Bool) (w : Nat),
      (w ≤ x.tx.toList.length → x.placeAfter drop w = w) ∧
      ∀ before f after, x.pend = before ++ f :: after →
        w = x.tx.toList.length + before.length + 1 → x.placeAfter drop w =
          if drop f.frame then 0
          else x.tx.toList.length + (before.filter fun d => !drop d.frame).length + 1) ∧
    (∀ (s : State) (p : PortId), s.port p = x →
      (x.heldBack = [] ∨ 24 ≤ x.outLen → exec (.deferredFramePlacement p) s = .next s) ∧
      (∀ h rest, x.heldBack = h :: rest → h.waits ≠ 0 →
        exec (.deferredFramePlacement p) s = .next s) ∧
      (∀ h rest, x.heldBack = h :: rest → x.outLen < 24 → h.waits = 0 →
        exec (.deferredFramePlacement p) s = .next { s with
          ports := s.ports.set p { x with pend := x.pend ++ [h.entry], heldBack := rest } }))

/-- O44. FRAME_SENT (R66, R72, R125, R146): the frame on the line leaves the list, the next one begins,
and what each held-back frame waits for stands one place nearer the head; the report of a BEGIN or
TRIAL that its engine holds starts the trial timer with the present TRIAL_TIMEOUT, or, where its
response was taken already, places the next TRIAL. Two clauses are the model's: on an idle line the
command stands for the whole transmission of the head (log 9), and a frame left by DISABLE_PORT ends
on no list and reports to no engine (log 14). -/
def Obligations.FrameSent : Prop :=
  ∀ (s : State) (p : PortId),
    (∀ f, (s.port p).finishing = some f → exec (.frameSent p) s = .next { s with
      ports := s.ports.set p ({ s.port p with finishing := none, sent := 0 } : Port).startTx }) ∧
    ((s.port p).finishing = none → (s.port p).tx = none → (s.port p).pend = [] →
      exec (.frameSent p) s = .next s) ∧
    (∀ (f : OutEntry) (rest : List OutEntry), (s.port p).finishing = none →
      ((s.port p).tx = some f ∧ rest = (s.port p).pend) ∨
        ((s.port p).tx = none ∧ (s.port p).pend = f :: rest) →
      ∀ t : State, t = { s with
        ports := s.ports.set p { s.port p with
          tx := rest.head?, pend := rest.tail, sent := 0
          heldBack := (s.port p).heldBack.map fun h => { h with waits := h.waits - 1 } } } →
      (f.owner = none ∨ f.frame.trialId = none → exec (.frameSent p) s = .next t) ∧
      (∀ e id, f.owner = some e → f.frame.trialId = some id →
        ((∀ c ∈ (s.engine e).ctx, c.leaving ≠ some id) → exec (.frameSent p) s = .next t) ∧
        (∀ c, (s.engine e).ctx = some c → c.leaving = some id →
          (c.outstanding = some id → exec (.frameSent p) s = .next { t with
            engines := s.engines.set e { s.engine e with ctx := some { c with
              leaving := none, timer := some ⟨s.now, s.trialTimeout * 25000⟩ } } }) ∧
          (c.outstanding ≠ some id →
            exec (.frameSent p) s = .next (t.proceed e { c with leaving := none })))))

/-! ### Timers -/

/-- O45. FRESHNESS_EXPIRY (R32, R141, R150), and what an abandonment without END does (R151): the port
is UNKNOWN, its CURRENT records DORMANT, and the job running for it is put back with END DEFERRED. -/
def Obligations.FreshnessExpiry : Prop :=
  ∀ (s : State) (p : PortId),
    ((s.port p).temp = .unknown → exec (.freshnessExpiry p) s = .next s) ∧
    (∀ v timer, (s.port p).temp = .fresh v timer →
      ∀ t : State, t = { s with
        now := max s.now (timer.since + timer.period)
        ports := s.ports.set p { s.port p with temp := .unknown }
        slots := s.slots.map (Slot.mapRecord fun r =>
          if r.key.port = p ∧ r.cond = .current then { r with cond := .dormant } else r) } →
      (s.runningPort p = none → exec (.freshnessExpiry p) s = .next { t with decision := true }) ∧
      (∀ e c, s.runningPort p = some (e, c) → s.OneSlotPerKey →
        ∃ u : State, exec (.freshnessExpiry p) s = .next u ∧
          t.JobAbandoned u e c true c.job.attempts)) ∧
    (s.runningPort p = none → s.abandonPort p false = s) ∧
    (∀ e c, s.runningPort p = some (e, c) → s.OneSlotPerKey →
      s.JobAbandoned (s.abandonPort p false) e c false c.job.attempts)

/-- O46. AGE_TIMER_EXPIRY (R13, R36, R43 to R45): one minute more, up to 65535, the next minute begun,
and STALE at the class age limit with the effects of the transition. -/
def Obligations.AgeTimerExpiry : Prop :=
  ∀ (s : State) (i : SlotId),
    ((∀ r, s.slot i ≠ .occupied r) → exec (.ageTimerExpiry i) s = .next s) ∧
    (∀ (r r' : Record) (t : State), s.slot i = .occupied r →
      r' = { r with
        age := if r.age < 65535 then r.age + 1 else r.age, ageSince := r.ageSince + 60000 * 25000 } →
      t = { s with now := max s.now (r.ageSince + 60000 * 25000) } →
      ((s.budget r.key.cls).ageLimit = 0 ∨ r'.age < (s.budget r.key.cls).ageLimit →
        exec (.ageTimerExpiry i) s = .next { t with slots := s.slots.set i (.occupied r') }) ∧
      ((s.budget r.key.cls).ageLimit ≠ 0 → (s.budget r.key.cls).ageLimit ≤ r'.age →
        ∃ u : State, exec (.ageTimerExpiry i) s = .next u ∧
          u = { t with
            slots := s.slots.set i (.occupied { r' with cond := .stale })
            ports := u.ports, autoReqs := u.autoReqs, events := u.events } ∧
          s.StaleEffects u (if r.cond = .stale then [] else [{ r' with cond := .stale }])))

/-- O47. TRIAL_TIMER_EXPIRY (R124, R143, R144): the same BEGIN or TRIAL again under the next id with
the retry flag set; on the second expiry the failure operation is asked for. -/
def Obligations.TrialTimerExpiry : Prop :=
  ∀ (s : State) (e : EngineId),
    ((∀ c ∈ (s.engine e).ctx, c.timer = none) → exec (.trialTimerExpiry e) s = .next s) ∧
    (∀ c timer, (s.engine e).ctx = some c → c.timer = some timer →
      (c.retry = false → exec (.trialTimerExpiry e) s = .next { s with
        now := max s.now (timer.since + timer.period)
        engines := s.engines.set e { s.engine e with
          nextId := (s.engine e).nextId + 1
          ctx := some { c with
            outstanding := some (s.engine e).nextId, leaving := some (s.engine e).nextId
            timer := none, retry := true } }
        ports := s.ports.set c.job.key.port ((s.port c.job.key.port).place
          ⟨c.directive (s.engine e).nextId, some e⟩) }) ∧
      (c.retry = true → exec (.trialTimerExpiry e) s = .next { s with
        now := max s.now (timer.since + timer.period)
        engines := s.engines.set e { s.engine e with
          ctx := some { c with
            outstanding := none, timer := none, phase := .finish
            request := some (.failure .unresponsive) } } }))

/-- O48. The Scheduler's own timers (R113) and the AUTO requests handed to it (R45, R104, R105): each
is followed by a start decision, and an AUTO request refused for a full queue raises QUEUE_FULL. -/
def Obligations.SchedulerEvents : Prop :=
  ∀ s : State,
    (s.startList = [] → exec .startListDeparture s = .next s) ∧
    (∀ t rest, s.startList = t :: rest → exec .startListDeparture s = .next { s with
      now := max s.now (t + s.trw * 25000), startList := rest, decision := true }) ∧
    (s.spaceAnyTimer = none → exec .spaceAnyExpiry s = .next s) ∧
    (∀ m, s.spaceAnyTimer = some m → exec .spaceAnyExpiry s = .next { s with
      now := max s.now m, spaceAnyTimer := none, decision := true }) ∧
    (∀ g, s.spaceGroupTimer.get g = none → exec (.spaceGroupExpiry g) s = .next s) ∧
    (∀ g m, s.spaceGroupTimer.get g = some m → exec (.spaceGroupExpiry g) s = .next { s with
      now := max s.now m, spaceGroupTimer := s.spaceGroupTimer.set g none, decision := true }) ∧
    (s.autoReqs = [] → exec .autoRequest s = .next s) ∧
    (∀ k rest, s.autoReqs = k :: rest →
      ∀ t : State, t = { s with autoReqs := rest } →
      ((s.port k.port).state = .offline → exec .autoRequest s = .next t) ∧
      ((s.port k.port).state ≠ .offline →
        ((t.enqueue k .auto .routine).2 ≠ .trainingFull →
          exec .autoRequest s = .next (t.enqueue k .auto .routine).1) ∧
        ((t.enqueue k .auto .routine).2 = .trainingFull →
          exec .autoRequest s = .next { t with
            decision := true, events := s.events ||| 0x10#8 })))

/-! ### Training -/

/-- O49. TEMPERATURE_MOVEMENT_TEST (R147 to R149): the oldest waiting test is taken; a job of its port
that lies further than half the drift budget from its start temperature is deferred on its first
movement, and on its second asks for the failure operation, unless it waits for one already. -/
def Obligations.MovementTest : Prop :=
  ∀ (s : State) (e : EngineId), s.OneSlotPerKey →
    ((s.engine e).tests = [] → exec (.temperatureMovementTest e) s = .next s) ∧
    (∀ p v rest, (s.engine e).tests = ⟨p, v⟩ :: rest →
      ∀ t : State, t = { s with engines := s.engines.set e { s.engine e with tests := rest } } →
      ((∀ c ∈ (s.engine e).ctx, c.job.key.port = p →
          2 * (v - c.startTemp).natAbs ≤ (s.budget c.job.key.cls).drift) →
        exec (.temperatureMovementTest e) s = .next t) ∧
      (∀ c, (s.engine e).ctx = some c → c.job.key.port = p →
        (s.budget c.job.key.cls).drift < 2 * (v - c.startTemp).natAbs →
        (c.job.attempts = 0 → ∃ u : State, exec (.temperatureMovementTest e) s = .next u ∧
          t.JobAbandoned u e c true 1) ∧
        (c.job.attempts ≠ 0 → c.failing = true →
          exec (.temperatureMovementTest e) s = .next t) ∧
        (c.job.attempts ≠ 0 → c.failing = false →
          exec (.temperatureMovementTest e) s = .next { s with
            engines := s.engines.set e { s.engine e with
              tests := rest
              ctx := some { c with
                outstanding := none, timer := none, phase := .finish
                request := some (.failure .unsettled) } } }))) ∧
    (∀ c : Ctx, c.failing = true ↔ c.request = some .noEye ∨ ∃ o, c.request = some (.failure o))

/-- O50. START_DECISION (R111, R112, R113, R115, R116): nothing unless one is due; no start where no
engine is idle, an admission test fails or no job may start; otherwise the first job that may start
runs on E0 if it is idle and on E1 otherwise, with its snapshot and the start records written. -/
def Obligations.StartDecision : Prop :=
  ∀ s : State, s.QueueSound →
    (s.decision = false → exec .startDecision s = .next s) ∧
    (s.decision = true → (¬s.Admits ∨ ∀ j ∈ s.queued, ∀ v, ¬s.MayStart j v) →
      exec .startDecision s = .next { s with decision := false }) ∧
    (∀ before j after v e, s.decision = true → s.Admits → s.queued = before ++ j :: after →
      (∀ x ∈ before, ∀ w, ¬s.MayStart x w) → s.MayStart j v →
      e = (if (s.engine 0).ctx = none then 0 else 1) →
      exec .startDecision s = .next { s with
        decision := true, queued := before ++ after
        startList := s.startList ++ [s.now], lastAny := some s.now
        lastGroup := s.lastGroup.set (groupOf j.key.port) (some s.now)
        spaceAnyTimer := if s.spaceAny = 0 then none else some (s.now + s.spaceAny * 25000)
        spaceGroupTimer := s.spaceGroupTimer.set (groupOf j.key.port)
          (if s.spaceGroup = 0 then none else some (s.now + s.spaceGroup * 25000))
        engines := s.engines.set e { s.engine e with ctx := some {
          job := j, phase := .claim, index := 0, outstanding := none, leaving := none, timer := none
          retry := false, profile := s.profile j.key, patterns := s.patterns, startTemp := v
          prior := none, delayMap := [], delayEye := [], refMap := [], refEye := []
          request := some .reserve } } })

/-- O51. RESCAN (R109): a job for each record wanted, in slot order, as far as entries are free, each
at the tail of the queue; a start decision follows. -/
def Obligations.Rescan : Prop :=
  ∀ s : State, s.QueueSound → s.OneSlotPerKey →
    (s.rescans = 0 → exec .rescan s = .next s) ∧
    (∀ n, s.rescans = n + 1 → exec .rescan s = .next { s with
      rescans := n, decision := true
      queued := s.queued ++
        (((s.slots.rows.filterMap Slot.record?).filter s.WantsTraining).take
          (16 - (s.queued.length + s.running.length))).map fun r =>
            { key := r.key, origin := .auto, urgency := .routine, attempts := 0 } })

/-- O52. RESERVATION (R15, R19, R117, R123, R128): over a record nothing is allocated; without one a
slot is reserved, or the job ends STORE_FULL; a job that goes on is in ANNOUNCE with BEGIN placed. -/
def Obligations.Reservation : Prop :=
  ∀ (s : State) (e : EngineId),
    ((∀ c ∈ (s.engine e).ctx, c.request ≠ some .reserve) → exec (.reservation e) s = .next s) ∧
    (∀ (c : Ctx) (k : Key), (s.engine e).ctx = some c → c.request = some .reserve →
      k = c.job.key →
      ∀ announced : State → Option (List PriorLane) → State,
      (∀ t prior, announced t prior = { t with
        engines := t.engines.set e { t.engine e with
          nextId := (t.engine e).nextId + 1
          ctx := some { c with
            phase := .announce, index := 0, prior := prior, request := none
            outstanding := some (t.engine e).nextId, leaving := some (t.engine e).nextId
            timer := none, retry := false
            delayMap := List.replicate c.profile.laneCount (List.replicate 64 none)
            refMap := List.replicate c.profile.laneCount (List.replicate 32 none)
            delayEye := [], refEye := [] } }
        ports := t.ports.set k.port ((t.port k.port).place
          ⟨.beginTraining k.cls (t.engine e).nextId, some e⟩) }) →
      (∀ i r, s.recordOf k = some (i, r) → exec (.reservation e) s = .next (announced s
        (some (r.lanes.map fun l => { tap := l.tap, ref := l.ref.map RefFields.level })))) ∧
      (∀ i t, s.slotOf k = none → s.allocate (s.profile k).laneCount = some (i, t) →
        exec (.reservation e) s = .next (announced { t with
          slots := t.slots.set i (.reserved k (s.profile k).laneCount)
          free := t.free - (s.profile k).laneCount } none)) ∧
      (s.slotOf k = none → s.allocate (s.profile k).laneCount = none →
        ∃ u : State, exec (.reservation e) s = .next u ∧
          s.JobEnded u e k .storeFull none 0x06#8) ∧
      (∀ i, s.slotOf k = some i → s.recordOf k = none → exec (.reservation e) s = .next s))

/-- O53. COMMIT (R21, R22, R38, R135 to R137): a reserved slot becomes a record of generation 1, an
existing record is written over with its generation advanced; END goes with the generation. A job
whose port temperature has moved does not commit (R38, log 12). -/
def Obligations.Commit : Prop :=
  ∀ (s : State) (e : EngineId),
    ((∀ c ∈ (s.engine e).ctx, c.request = some .commit → ¬s.MayCommit c) →
      exec (.commit e) s = .next s) ∧
    (∀ (c : Ctx) (k : Key) (i : SlotId), (s.engine e).ctx = some c → c.request = some .commit →
      s.MayCommit c → k = c.job.key → s.slotOf k = some i →
      ∀ (o : JobOutcome), (o = if .failed ∈ c.results then .part else .committed) →
      (∀ r, s.slot i = .occupied r →
        ∀ g, g = (if r.gen = 65535 then 1 else r.gen + 1) →
        exec (.commit e) s = .next { s with
          slots := s.slots.set i (.occupied { r with
            cond := .current, gen := g, applied := if r.gen = 65535 then none else r.applied
            origin := .trained, trained := c.startTemp, age := 0, holdOff := false
            lanes := c.commitLanes (some r.lanes), ageSince := s.now })
          engines := s.engines.set e { s.engine e with ctx := none }
          ports := s.ports.set k.port ((s.port k.port).ended k.cls o (some g))
          rescans := s.rescans + 1 }) ∧
      (∀ k' n, s.slot i = .reserved k' n →
        ∀ t : State, t = s.advanceStamp →
        exec (.commit e) s = .next { t with
          slots := t.slots.set i (.occupied {
            key := k, cond := .current, gen := 1, applied := none, origin := .trained
            trained := c.startTemp, age := 0, pinned := false, holdOff := false, stamp := t.stamp
            laneCount := n, lanes := c.commitLanes none, ageSince := s.now })
          engines := s.engines.set e { s.engine e with ctx := none }
          ports := s.ports.set k.port ((s.port k.port).ended k.cls o (some 1))
          rescans := s.rescans + 1 }))

/-- O54. NO_EYE and FAILURE_OPERATION (R11, R20, R138, R145, R155): hold-off is set on an existing
record or the reservation is released, END is placed and latched, JOB_FAILED is raised, and the
entry is freed. -/
def Obligations.FailedEnds : Prop :=
  ∀ (s : State) (e : EngineId), s.OneSlotPerKey →
    ((∀ c ∈ (s.engine e).ctx, c.request ≠ some .noEye) → exec (.noEye e) s = .next s) ∧
    ((∀ c ∈ (s.engine e).ctx, ∀ o, c.request ≠ some (.failure o)) →
      exec (.failureOperation e) s = .next s) ∧
    (∀ (c : Ctx) (k : Key) (t : State), (s.engine e).ctx = some c → k = c.job.key →
      t = { s with slots := match s.recordOf k with
        | some (i, r) => s.slots.set i (.occupied { r with holdOff := true })
        | none => s.slots } →
      (c.request = some .noEye → ∃ u : State, exec (.noEye e) s = .next u ∧
        t.JobEnded u e k .noEye none 0x02#8) ∧
      (∀ o, c.request = some (.failure o) → ∃ u : State, exec (.failureOperation e) s = .next u ∧
        t.JobEnded u e k o none 0x02#8))

/-! ### The Store Arbiter -/

/-- O55. The grant (R76): the first requester waiting at or after the pointer; a port waits when it is
ONLINE with a request and fewer than 12 frames listed, the mailbox when a command that needs the
store stands; and each grant brings a requester that stays waiting nearer to its own. -/
def Obligations.ArbiterGrants : Prop :=
  ∀ s : State,
    (∀ p : PortId, s.waiting p.castSucc = true ↔
      (s.port p).state = .online ∧ (s.port p).reqs ≠ [] ∧ (s.port p).outLen < 12) ∧
    (s.waiting 8 = true ↔ ∃ c, s.mb.copy = some c ∧
      c.code ∈ [0x01#8, 0x02, 0x03, 0x04, 0x05, 0x06, 0x0B, 0x0D]) ∧
    (∀ r, s.grant = some r ↔ s.waiting r = true ∧
      ∀ q, s.turnsAway q < s.turnsAway r → s.waiting q = false) ∧
    (s.grant = none ↔ ∀ r, s.waiting r = false) ∧
    (∀ r, s.turnsAway r < 9) ∧
    (∀ r q, s.waiting r = true → s.grant = some q → q ≠ r →
      State.turnsAway { s with arb := q + 1 } r < s.turnsAway r) ∧
    (∀ p : PortId, (s.takeHead p).arb = p.castSucc + 1) ∧
    (∀ (code : Byte) (f : State → CmdCopy → State) (c : CmdCopy), s.CommandDue c code →
      s.onGrant code f = f { s with arb := 0 } c)

/-! ### Invariants -/

/-- O56. Every invariant below holds right after reset. -/
def Obligations.InvariantsAtReset : Prop :=
  State.reset.PoolBalanced ∧ State.reset.OneSlotPerKey ∧ State.reset.StampsDistinct ∧
  State.reset.GenerationsInRange ∧ State.reset.PortsSound ∧ State.reset.ListsBounded ∧
  State.reset.Joined ∧ State.reset.Vouched ∧ State.reset.ParametersInRange ∧
  State.reset.BufferCanonical

/-- O57. Every step keeps the store's books: the pool balance (R3), one slot for each key (R2), distinct
stamps (R12), and generations in range (R4, R7). -/
def Obligations.StepsKeepStore : Prop :=
  ∀ s s' : State, step s = .next s' →
    (s.PoolBalanced → s'.PoolBalanced) ∧ (s.OneSlotPerKey → s'.OneSlotPerKey) ∧
    (s.StampsDistinct → s'.StampsDistinct) ∧ (s.GenerationsInRange → s'.GenerationsInRange)

/-- O58. Every step keeps the output lists within 24 frames with one NAK and one NOTICE for each class
waiting and each held-back frame waiting for a listed frame or none (R72 to R74, log 10), the parameters in range (R40, R113, R114, R158, R162, R167), and the buffer in
its canonical form. -/
def Obligations.StepsKeepBounds : Prop :=
  ∀ s s' : State, step s = .next s' →
    (s.ListsBounded → s'.ListsBounded) ∧ (s.ParametersInRange → s'.ParametersInRange) ∧
    (s.BufferCanonical → s'.BufferCanonical)

/-- O59. Every step keeps what R34 says, a CURRENT record's port is FRESH and its three budgets are
met, together with what it rests on: sound ports (R33, R50, R57, R67, R70), a sound queue (R103,
R111), and the watch kept on running jobs (R147, R149; log 12). -/
def Obligations.StepsKeepCurrentFit : Prop :=
  ∀ s s' : State, step s = .next s' → s.Vouched → s'.Vouched

/-- O60. Every step keeps records, reservations, jobs and profiles fitted together: each record has
its profile's lanes and reference fields (R5), each RESERVED slot its running job (R19), each job an
enabled class of an enabled port (R105), and each running job a FRESH ONLINE port of its own (R111). -/
def Obligations.StepsKeepJoined : Prop :=
  ∀ s s' : State, step s = .next s' → s.Joined → s'.Joined
end

