-- ==== Sys2Proof/Laws/State.lean ====
section
/-! SUPPORT. Reading a table after an update, and each field of State after each shared update. -/

namespace Sys2Proof

variable {n : Nat} {α β : Type}

/-! ### Tables -/

/-- Two tables with the same rows read alike everywhere are equal. -/
@[ext] theorem Table.ext_get {t u : Table n α} (h : ∀ i, t.get i = u.get i) : t = u := by
  obtain ⟨a, ha⟩ := t
  obtain ⟨b, hb⟩ := u
  congr
  refine List.ext_getElem (by omega) fun i h1 h2 => ?_
  exact h ⟨i, by omega⟩

@[simp] theorem Table.get_fill (a : α) (i : Fin n) : (Table.fill n a).get i = a := by
  simp [Table.get, Table.fill]

@[simp] theorem Table.get_map (f : α → β) (t : Table n α) (i : Fin n) :
    (t.map f).get i = f (t.get i) := by simp [Table.get, Table.map]

theorem Table.get_set (t : Table n α) (i j : Fin n) (a : α) :
    (t.set i a).get j = if i = j then a else t.get j := by
  simp [Table.get, Table.set, List.getElem_set, Fin.ext_iff]

@[simp] theorem Table.get_set_self (t : Table n α) (i : Fin n) (a : α) : (t.set i a).get i = a := by
  simp [Table.get_set]

theorem Table.get_set_of_ne (t : Table n α) {i j : Fin n} (h : i ≠ j) (a : α) :
    (t.set i a).get j = t.get j := by simp [Table.get_set, h]

@[simp] theorem Table.set_get (t : Table n α) (i : Fin n) : t.set i (t.get i) = t := by
  ext j
  by_cases h : i = j <;> simp [Table.get_set, h]

@[simp] theorem Table.set_set (t : Table n α) (i : Fin n) (a b : α) :
    (t.set i a).set i b = t.set i b := by
  ext j
  by_cases h : i = j <;> simp [Table.get_set, h]

theorem Table.set_comm (t : Table n α) {i j : Fin n} (h : i ≠ j) (a b : α) :
    (t.set i a).set j b = (t.set j b).set i a := by
  ext k
  simp only [Table.get_set]
  split <;> split <;> simp_all

theorem Table.map_set (f : α → β) (t : Table n α) (i : Fin n) (a : α) :
    (t.set i a).map f = (t.map f).set i (f a) := by
  ext j
  by_cases h : i = j <;> simp [Table.get_set, h]

theorem Table.mem_rows (t : Table n α) (a : α) : a ∈ t.rows ↔ ∃ i, t.get i = a := by
  simp only [List.mem_iff_getElem, Table.get]
  constructor
  · rintro ⟨i, h, rfl⟩
    exact ⟨⟨i, by rw [← t.size]; exact h⟩, rfl⟩
  · rintro ⟨i, rfl⟩
    exact ⟨i.val, by rw [t.size]; exact i.isLt, rfl⟩

/-- The rows of a table are its values in index order. -/
theorem Table.rows_eq (t : Table n α) : t.rows = (List.finRange n).map t.get := by
  refine List.ext_getElem (by simp [t.size]) fun i h1 h2 => ?_
  simp [Table.get]

@[simp] theorem Table.rows_map (f : α → β) (t : Table n α) : (t.map f).rows = t.rows.map f := rfl

namespace Machine

/-! ### One port changed -/

section ModPort
variable (s : State) (p q : PortId) (f : Port → Port)

theorem State.port_modPort : (s.modPort p f).port q = if p = q then f (s.port p) else s.port q := by
  simp only [State.port, State.modPort, Table.get_set]

@[simp] theorem State.port_modPort_self : (s.modPort p f).port p = f (s.port p) := by
  simp [State.port_modPort]

/-- An update that leaves the port as it is leaves the state as it is. -/
theorem State.modPort_eq_self (h : f (s.port p) = s.port p) : s.modPort p f = s := by
  have e : s.ports.set p (s.port p) = s.ports := Table.set_get s.ports p
  unfold State.modPort
  rw [h, e]

/-- Two updates of one port are one. -/
@[simp] theorem State.modPort_modPort (g : Port → Port) :
    (s.modPort p f).modPort p g = s.modPort p fun x => g (f x) := by
  simp [State.modPort, State.port]

@[simp] theorem State.modPort_pending : (s.modPort p f).pending = s.pending := rfl
@[simp] theorem State.modPort_now : (s.modPort p f).now = s.now := rfl
@[simp] theorem State.modPort_slots : (s.modPort p f).slots = s.slots := rfl
@[simp] theorem State.modPort_free : (s.modPort p f).free = s.free := rfl
@[simp] theorem State.modPort_stamp : (s.modPort p f).stamp = s.stamp := rfl
@[simp] theorem State.modPort_arb : (s.modPort p f).arb = s.arb := rfl
@[simp] theorem State.modPort_budgets : (s.modPort p f).budgets = s.budgets := rfl
@[simp] theorem State.modPort_freshTime : (s.modPort p f).freshTime = s.freshTime := rfl
@[simp] theorem State.modPort_profiles : (s.modPort p f).profiles = s.profiles := rfl
@[simp] theorem State.modPort_queued : (s.modPort p f).queued = s.queued := rfl
@[simp] theorem State.modPort_startList : (s.modPort p f).startList = s.startList := rfl
@[simp] theorem State.modPort_lastAny : (s.modPort p f).lastAny = s.lastAny := rfl
@[simp] theorem State.modPort_lastGroup : (s.modPort p f).lastGroup = s.lastGroup := rfl
@[simp] theorem State.modPort_spaceAnyTimer : (s.modPort p f).spaceAnyTimer = s.spaceAnyTimer := rfl
@[simp] theorem State.modPort_spaceGroupTimer :
    (s.modPort p f).spaceGroupTimer = s.spaceGroupTimer := rfl
@[simp] theorem State.modPort_trw : (s.modPort p f).trw = s.trw := rfl
@[simp] theorem State.modPort_windowLimit : (s.modPort p f).windowLimit = s.windowLimit := rfl
@[simp] theorem State.modPort_spaceAny : (s.modPort p f).spaceAny = s.spaceAny := rfl
@[simp] theorem State.modPort_spaceGroup : (s.modPort p f).spaceGroup = s.spaceGroup := rfl
@[simp] theorem State.modPort_decision : (s.modPort p f).decision = s.decision := rfl
@[simp] theorem State.modPort_rescans : (s.modPort p f).rescans = s.rescans := rfl
@[simp] theorem State.modPort_autoReqs : (s.modPort p f).autoReqs = s.autoReqs := rfl
@[simp] theorem State.modPort_engines : (s.modPort p f).engines = s.engines := rfl
@[simp] theorem State.modPort_trialTimeout : (s.modPort p f).trialTimeout = s.trialTimeout := rfl
@[simp] theorem State.modPort_patterns : (s.modPort p f).patterns = s.patterns := rfl
@[simp] theorem State.modPort_patternHeld : (s.modPort p f).patternHeld = s.patternHeld := rfl
@[simp] theorem State.modPort_mb : (s.modPort p f).mb = s.mb := rfl
@[simp] theorem State.modPort_spi : (s.modPort p f).spi = s.spi := rfl
@[simp] theorem State.modPort_events : (s.modPort p f).events = s.events := rfl
@[simp] theorem State.modPort_eventEn : (s.modPort p f).eventEn = s.eventEn := rfl
@[simp] theorem State.modPort_alertEnable : (s.modPort p f).alertEnable = s.alertEnable := rfl
@[simp] theorem State.slot_modPort (i : SlotId) : (s.modPort p f).slot i = s.slot i := rfl
@[simp] theorem State.engine_modPort (e : EngineId) : (s.modPort p f).engine e = s.engine e := rfl

end ModPort

/-! ### One slot replaced -/

section SetSlot
variable (s : State) (i j : SlotId) (x : Slot)

theorem State.slot_setSlot : (s.setSlot i x).slot j = if i = j then x else s.slot j := by
  simp only [State.slot, State.setSlot, Table.get_set]

@[simp] theorem State.slot_setSlot_self : (s.setSlot i x).slot i = x := by simp [State.slot_setSlot]

@[simp] theorem State.setSlot_pending : (s.setSlot i x).pending = s.pending := rfl
@[simp] theorem State.setSlot_now : (s.setSlot i x).now = s.now := rfl
@[simp] theorem State.setSlot_ports : (s.setSlot i x).ports = s.ports := rfl
@[simp] theorem State.setSlot_free : (s.setSlot i x).free = s.free := rfl
@[simp] theorem State.setSlot_stamp : (s.setSlot i x).stamp = s.stamp := rfl
@[simp] theorem State.setSlot_arb : (s.setSlot i x).arb = s.arb := rfl
@[simp] theorem State.setSlot_budgets : (s.setSlot i x).budgets = s.budgets := rfl
@[simp] theorem State.setSlot_freshTime : (s.setSlot i x).freshTime = s.freshTime := rfl
@[simp] theorem State.setSlot_profiles : (s.setSlot i x).profiles = s.profiles := rfl
@[simp] theorem State.setSlot_queued : (s.setSlot i x).queued = s.queued := rfl
@[simp] theorem State.setSlot_startList : (s.setSlot i x).startList = s.startList := rfl
@[simp] theorem State.setSlot_lastAny : (s.setSlot i x).lastAny = s.lastAny := rfl
@[simp] theorem State.setSlot_lastGroup : (s.setSlot i x).lastGroup = s.lastGroup := rfl
@[simp] theorem State.setSlot_spaceAnyTimer : (s.setSlot i x).spaceAnyTimer = s.spaceAnyTimer := rfl
@[simp] theorem State.setSlot_spaceGroupTimer :
    (s.setSlot i x).spaceGroupTimer = s.spaceGroupTimer := rfl
@[simp] theorem State.setSlot_trw : (s.setSlot i x).trw = s.trw := rfl
@[simp] theorem State.setSlot_windowLimit : (s.setSlot i x).windowLimit = s.windowLimit := rfl
@[simp] theorem State.setSlot_spaceAny : (s.setSlot i x).spaceAny = s.spaceAny := rfl
@[simp] theorem State.setSlot_spaceGroup : (s.setSlot i x).spaceGroup = s.spaceGroup := rfl
@[simp] theorem State.setSlot_decision : (s.setSlot i x).decision = s.decision := rfl
@[simp] theorem State.setSlot_rescans : (s.setSlot i x).rescans = s.rescans := rfl
@[simp] theorem State.setSlot_autoReqs : (s.setSlot i x).autoReqs = s.autoReqs := rfl
@[simp] theorem State.setSlot_engines : (s.setSlot i x).engines = s.engines := rfl
@[simp] theorem State.setSlot_trialTimeout : (s.setSlot i x).trialTimeout = s.trialTimeout := rfl
@[simp] theorem State.setSlot_patterns : (s.setSlot i x).patterns = s.patterns := rfl
@[simp] theorem State.setSlot_patternHeld : (s.setSlot i x).patternHeld = s.patternHeld := rfl
@[simp] theorem State.setSlot_mb : (s.setSlot i x).mb = s.mb := rfl
@[simp] theorem State.setSlot_spi : (s.setSlot i x).spi = s.spi := rfl
@[simp] theorem State.setSlot_events : (s.setSlot i x).events = s.events := rfl
@[simp] theorem State.setSlot_eventEn : (s.setSlot i x).eventEn = s.eventEn := rfl
@[simp] theorem State.setSlot_alertEnable : (s.setSlot i x).alertEnable = s.alertEnable := rfl
@[simp] theorem State.port_setSlot (p : PortId) : (s.setSlot i x).port p = s.port p := rfl
@[simp] theorem State.engine_setSlot (e : EngineId) : (s.setSlot i x).engine e = s.engine e := rfl

end SetSlot

/-! ### One engine changed -/

section ModEngine
variable (s : State) (e d : EngineId) (f : Engine → Engine)

theorem State.engine_modEngine :
    (s.modEngine e f).engine d = if e = d then f (s.engine e) else s.engine d := by
  simp only [State.engine, State.modEngine, Table.get_set]

@[simp] theorem State.engine_modEngine_self : (s.modEngine e f).engine e = f (s.engine e) := by
  simp [State.engine_modEngine]

@[simp] theorem State.modEngine_pending : (s.modEngine e f).pending = s.pending := rfl
@[simp] theorem State.modEngine_now : (s.modEngine e f).now = s.now := rfl
@[simp] theorem State.modEngine_ports : (s.modEngine e f).ports = s.ports := rfl
@[simp] theorem State.modEngine_slots : (s.modEngine e f).slots = s.slots := rfl
@[simp] theorem State.modEngine_free : (s.modEngine e f).free = s.free := rfl
@[simp] theorem State.modEngine_stamp : (s.modEngine e f).stamp = s.stamp := rfl
@[simp] theorem State.modEngine_arb : (s.modEngine e f).arb = s.arb := rfl
@[simp] theorem State.modEngine_budgets : (s.modEngine e f).budgets = s.budgets := rfl
@[simp] theorem State.modEngine_freshTime : (s.modEngine e f).freshTime = s.freshTime := rfl
@[simp] theorem State.modEngine_profiles : (s.modEngine e f).profiles = s.profiles := rfl
@[simp] theorem State.modEngine_queued : (s.modEngine e f).queued = s.queued := rfl
@[simp] theorem State.modEngine_startList : (s.modEngine e f).startList = s.startList := rfl
@[simp] theorem State.modEngine_lastAny : (s.modEngine e f).lastAny = s.lastAny := rfl
@[simp] theorem State.modEngine_lastGroup : (s.modEngine e f).lastGroup = s.lastGroup := rfl
@[simp] theorem State.modEngine_spaceAnyTimer :
    (s.modEngine e f).spaceAnyTimer = s.spaceAnyTimer := rfl
@[simp] theorem State.modEngine_spaceGroupTimer :
    (s.modEngine e f).spaceGroupTimer = s.spaceGroupTimer := rfl
@[simp] theorem State.modEngine_trw : (s.modEngine e f).trw = s.trw := rfl
@[simp] theorem State.modEngine_windowLimit : (s.modEngine e f).windowLimit = s.windowLimit := rfl
@[simp] theorem State.modEngine_spaceAny : (s.modEngine e f).spaceAny = s.spaceAny := rfl
@[simp] theorem State.modEngine_spaceGroup : (s.modEngine e f).spaceGroup = s.spaceGroup := rfl
@[simp] theorem State.modEngine_decision : (s.modEngine e f).decision = s.decision := rfl
@[simp] theorem State.modEngine_rescans : (s.modEngine e f).rescans = s.rescans := rfl
@[simp] theorem State.modEngine_autoReqs : (s.modEngine e f).autoReqs = s.autoReqs := rfl
@[simp] theorem State.modEngine_trialTimeout : (s.modEngine e f).trialTimeout = s.trialTimeout := rfl
@[simp] theorem State.modEngine_patterns : (s.modEngine e f).patterns = s.patterns := rfl
@[simp] theorem State.modEngine_patternHeld : (s.modEngine e f).patternHeld = s.patternHeld := rfl
@[simp] theorem State.modEngine_mb : (s.modEngine e f).mb = s.mb := rfl
@[simp] theorem State.modEngine_spi : (s.modEngine e f).spi = s.spi := rfl
@[simp] theorem State.modEngine_events : (s.modEngine e f).events = s.events := rfl
@[simp] theorem State.modEngine_eventEn : (s.modEngine e f).eventEn = s.eventEn := rfl
@[simp] theorem State.modEngine_alertEnable : (s.modEngine e f).alertEnable = s.alertEnable := rfl
@[simp] theorem State.port_modEngine (p : PortId) : (s.modEngine e f).port p = s.port p := rfl
@[simp] theorem State.slot_modEngine (i : SlotId) : (s.modEngine e f).slot i = s.slot i := rfl

end ModEngine

/-! ### The small updates as what they write -/

theorem State.setCtx_eq (s : State) (e : EngineId) (c : Option Ctx) :
    s.setCtx e c = { s with engines := s.engines.set e { s.engine e with ctx := c } } := rfl

theorem State.reach_eq (s : State) (m : Nat) : s.reach m = { s with now := max s.now m } := rfl

theorem State.decide_eq (s : State) : s.decide = { s with decision := true } := rfl

theorem State.rescanAfter_eq (s : State) (n : Nat) :
    s.rescanAfter n = { s with rescans := s.rescans + n } := rfl

theorem State.raise_eq (s : State) (f : EventFlag) :
    s.raise f = { s with events := s.events ||| f.mask } := rfl

theorem State.granted_eq (s : State) (r : Requester) : s.granted r = { s with arb := r + 1 } := rfl

theorem State.endCommand_eq (s : State) (result : Status) (retired : Bool) :
    s.endCommand result retired =
      { s with
        mb := { s.mb with result := result, retired := retired, copy := none }
        events := s.events ||| EventFlag.mbDone.mask } := rfl

theorem State.emit_eq (s : State) (p : PortId) (f : OutFrame) :
    s.emit p f = { s with ports := s.ports.set p ((s.port p).place (plainEntry f)) } := rfl

theorem State.placeEnd_eq (s : State) (k : Key) (o : JobOutcome) (gen : Option Nat) :
    s.placeEnd k o gen = { s with
      ports := s.ports.set k.port { (s.port k.port).place (plainEntry (.endTraining k.cls o gen)) with
        lastOutcome := some (o, k.cls) } } := by
  simp [State.placeEnd, State.emit, State.modPort, State.port]

theorem State.releaseSlot_eq (s : State) (i : SlotId) :
    s.releaseSlot i =
      { s with slots := s.slots.set i .free, free := s.free + (s.slot i).lanes } := rfl

theorem State.takeSlot_eq (s : State) (i : SlotId) (x : Slot) (n : Nat) :
    s.takeSlot i x n = { s with slots := s.slots.set i x, free := s.free - n } := rfl

theorem State.loseTemp_eq (s : State) (p : PortId) (clear : Bool) :
    s.loseTemp p clear = { s with
      ports := s.ports.set p { s.port p with temp := .unknown }
      slots := s.slots.map (Slot.mapRecord (Record.onTempLost p clear)) } := rfl

end Machine
end Sys2Proof
end

