-- ==== Sys2Proof/Laws/Ops.lean ====
section
/-! SUPPORT. What each shared operation can do, once: the directory, the running jobs, the way a job
leaves its engine, and the output list. -/

namespace Sys2Proof.Machine

/-! ### The directory (R2) -/

theorem State.key_of_slotOf {s : State} {k : Key} {i : SlotId} (h : s.slotOf k = some i) :
    (s.slot i).key? = some k := by
  have := List.find?_some h
  simpa using this

theorem State.slotOf_isSome {s : State} {k : Key} {i : SlotId} (h : (s.slot i).key? = some k) :
    (s.slotOf k).isSome = true := by
  simp only [State.slotOf, List.find?_isSome]
  exact ⟨i, List.mem_finRange i, by simp [h]⟩

theorem State.slotOf_eq_none {s : State} {k : Key} :
    s.slotOf k = none ↔ ∀ i, (s.slot i).key? ≠ some k := by
  simp [State.slotOf, List.find?_eq_none]

/-- With one slot for each key, the directory names the slot that holds the key. -/
theorem State.slotOf_eq {s : State} {k : Key} {i : SlotId} (h : s.OneSlotPerKey)
    (hi : (s.slot i).key? = some k) : s.slotOf k = some i := by
  obtain ⟨j, hj⟩ := Option.isSome_iff_exists.mp (s.slotOf_isSome hi)
  have hk := State.key_of_slotOf hj
  rw [hj, h j i (by simp [hk]) (by rw [hk, hi])]

theorem State.recordOf_eq_some {s : State} {k : Key} {i : SlotId} {r : Record} :
    s.recordOf k = some (i, r) ↔ s.slotOf k = some i ∧ s.slot i = .occupied r := by
  simp only [State.recordOf, Option.bind_eq_some_iff, Option.map_eq_some_iff, Prod.mk.injEq]
  constructor
  · rintro ⟨j, hj, q, hq, rfl, rfl⟩
    refine ⟨hj, ?_⟩
    cases hx : s.slot j <;> simp_all [Slot.record?]
  · rintro ⟨hi, hr⟩
    exact ⟨i, hi, r, by simp [hr, Slot.record?]⟩

/-- A record found under a key carries that key. -/
theorem State.key_of_recordOf {s : State} {k : Key} {i : SlotId} {r : Record}
    (h : s.recordOf k = some (i, r)) : r.key = k := by
  obtain ⟨hi, hr⟩ := State.recordOf_eq_some.mp h
  have := State.key_of_slotOf hi
  simpa [hr, Slot.key?] using this

/-- Without a record a key has no slot or a RESERVED one. -/
theorem State.recordOf_eq_none {s : State} {k : Key} :
    s.recordOf k = none ↔ ∀ i, s.slotOf k = some i → ∃ n, s.slot i = .reserved k n := by
  constructor
  · intro h i hi
    have hk := State.key_of_slotOf hi
    rcases hx : s.slot i with _ | ⟨k', n⟩ | r
    · simp [hx, Slot.key?] at hk
    · simp only [hx, Slot.key?, Option.some.injEq] at hk
      exact ⟨n, by rw [hk]⟩
    · rw [State.recordOf_eq_some.mpr ⟨hi, hx⟩] at h
      simp at h
  · intro h
    by_contra hn
    obtain ⟨⟨i, r⟩, hr⟩ := Option.ne_none_iff_exists'.mp hn
    obtain ⟨hi, hx⟩ := State.recordOf_eq_some.mp hr
    obtain ⟨n, hn⟩ := h i hi
    rw [hx] at hn
    simp at hn

/-! ### Running jobs (R103, R111) -/

theorem State.runningWhere_eq_some {s : State} {q : Ctx → Bool} {e : EngineId} {c : Ctx}
    (h : s.runningWhere q = some (e, c)) : (s.engine e).ctx = some c ∧ q c = true := by
  simp only [State.runningWhere, List.findSome?_eq_some_iff, Option.map_eq_some_iff,
    Prod.mk.injEq] at h
  obtain ⟨_, d, _, _, ⟨x, hx, rfl, rfl⟩, _⟩ := h
  simpa using hx

theorem State.runningWhere_eq_none {s : State} {q : Ctx → Bool} :
    s.runningWhere q = none ↔ ∀ e, ∀ c ∈ (s.engine e).ctx, q c = false := by
  simp only [State.runningWhere, List.findSome?_eq_none_iff, Option.map_eq_none_iff,
    Option.filter_eq_none_iff, List.mem_finRange, forall_const]
  simp

theorem State.mem_running {s : State} {j : Job} :
    j ∈ s.running ↔ ∃ e c, (s.engine e).ctx = some c ∧ c.job = j := by
  simp only [State.running, List.mem_filterMap, Table.mem_rows, Option.map_eq_some_iff]
  constructor
  · rintro ⟨x, ⟨e, rfl⟩, c, hc, rfl⟩
    exact ⟨e, c, hc, rfl⟩
  · rintro ⟨e, c, hc, rfl⟩
    exact ⟨_, ⟨e, rfl⟩, c, hc, rfl⟩

theorem State.jobRunning_iff {s : State} {k : Key} :
    s.jobRunning k = true ↔ ∃ j ∈ s.running, j.key = k := by
  rw [State.jobRunning, ← Option.ne_none_iff_isSome, State.runningKey, ne_eq,
    State.runningWhere_eq_none]
  push Not
  constructor
  · rintro ⟨e, c, hc, hk⟩
    exact ⟨c.job, State.mem_running.mpr ⟨e, c, hc, rfl⟩, by simpa using hk⟩
  · rintro ⟨j, hj, hk⟩
    obtain ⟨e, c, hc, rfl⟩ := State.mem_running.mp hj
    exact ⟨e, c, hc, by simpa using hk⟩

theorem State.jobQueued_iff {s : State} {k : Key} :
    s.jobQueued k = true ↔ ∃ j ∈ s.queued, j.key = k := by
  simp [State.jobQueued]

/-- The jobs running, written out by engine. -/
theorem State.running_eq (s : State) :
    s.running = ((s.engine 0).ctx.map Ctx.job).toList ++ ((s.engine 1).ctx.map Ctx.job).toList := by
  have : s.engines.rows = [s.engine 0, s.engine 1] := by
    rw [Table.rows_eq]
    rfl
  rw [State.running, this]
  cases h : (s.engine 0).ctx <;> cases h' : (s.engine 1).ctx <;> simp [List.filterMap, h, h']

theorem State.enginesBusy_eq (s : State) : s.enginesBusy = s.running.length := by
  have : s.engines.rows = [s.engine 0, s.engine 1] := by
    rw [Table.rows_eq]
    rfl
  rw [State.enginesBusy, this, State.running_eq]
  cases h : (s.engine 0).ctx <;> cases h' : (s.engine 1).ctx <;> simp [List.filter, h, h']

/-- Entries held are the queued jobs and the running ones (R103). -/
theorem State.entriesHeld_eq (s : State) : s.entriesHeld = s.queued.length + s.running.length := by
  rw [State.entriesHeld, State.enginesBusy_eq]

/-! ### The end of a run (R20, R141) -/

/-- What releasing a key's reservation leaves, with one slot for each key. -/
theorem State.releaseReservation_spec (s : State) (k : Key) (h : s.OneSlotPerKey) :
    ∃ slots free, s.releaseReservation k = { s with slots := slots, free := free } ∧
      (∀ i, slots.get i = match s.slot i with
        | .reserved k' n => if k' = k then .free else .reserved k' n
        | x => x) ∧
      free + (slots.rows.map Slot.lanes).sum = s.free + (s.slots.rows.map Slot.lanes).sum := by
  have untouched : (∀ i n, s.slot i ≠ .reserved k n) → ∀ i, s.slots.get i = match s.slot i with
      | .reserved k' n => if k' = k then .free else .reserved k' n
      | x => x := by
    intro hn i
    change s.slot i = _
    rcases hx : s.slot i with _ | ⟨k', n⟩ | r
    · rfl
    · have : k' ≠ k := fun hk => hn i n (by rw [hx, hk])
      simp [this]
    · rfl
  cases hs : s.slotOf k with
  | none =>
    refine ⟨s.slots, s.free, by simp [State.releaseReservation, hs], untouched ?_, rfl⟩
    intro i n hx
    exact State.slotOf_eq_none.mp hs i (by simp [hx, Slot.key?])
  | some i =>
    rcases hx : s.slot i with _ | ⟨k', n⟩ | r
    · have := State.key_of_slotOf hs
      simp [hx, Slot.key?] at this
    · have hk : k' = k := by
        have := State.key_of_slotOf hs
        simpa [hx, Slot.key?] using this
      subst hk
      refine ⟨s.slots.set i .free, s.free + n, by
        simp [State.releaseReservation, hs, hx, State.releaseSlot, State.setSlot, Slot.lanes], ?_, ?_⟩
      · intro j
        rw [Table.get_set]
        by_cases hij : i = j
        · subst hij
          simp [hx]
        · rw [if_neg hij]
          rcases hj : s.slot j with _ | ⟨k'', m⟩ | r
          · exact hj
          · have : k'' ≠ k' := by
              intro hk
              apply hij
              apply h i j (by simp [hx, Slot.key?])
              simp [hx, hj, Slot.key?, hk]
            simp only [this, if_false]
            exact hj
          · exact hj
      · have hn : (s.slots.rows.map Slot.lanes)[i.val]'(by
            simp [s.slots.size]) = n := by
          have : s.slots.rows[i.val]'(by simp [s.slots.size]) = .reserved k' n := hx
          simp [this, Slot.lanes]
        simp only [Table.set, List.map_set, Slot.lanes]
        have key : ∀ (l : List Nat) (m : Nat) (hm : m < l.length), (l.set m 0).sum + l[m] = l.sum := by
          intro l
          induction l with
          | nil => intro m hm; simp at hm
          | cons a l ih =>
            intro m hm
            cases m with
            | zero => simp; omega
            | succ m =>
              have := ih m (by simpa using hm)
              simp only [List.set_cons_succ, List.sum_cons, List.getElem_cons_succ]
              omega
        have := key (s.slots.rows.map Slot.lanes) i.val (by simp [s.slots.size])
        rw [hn] at this
        omega
    · refine ⟨s.slots, s.free, by simp [State.releaseReservation, hs, hx], untouched ?_, rfl⟩
      intro j n hj
      have : s.slotOf k = some j := State.slotOf_eq h (by simp [hj, Slot.key?])
      rw [hs] at this
      cases this
      rw [hx] at hj
      cases hj

/-- The end of a run: its frames withdrawn, its reservation released, the engine IDLE (R141). -/
theorem State.endRun_spec (s : State) (e : EngineId) (k : Key) (h : s.OneSlotPerKey) :
    ∃ slots free, s.endRun e k = { s with
        ports := s.ports.set k.port (s.port k.port).withdraw
        slots := slots, free := free
        engines := s.engines.set e { s.engine e with ctx := none } } ∧
      s.RunEnded (s.endRun e k) e k := by
  obtain ⟨slots, free, hr, hs, hf⟩ :=
    State.releaseReservation_spec (s.modPort k.port Port.withdraw) k h
  refine ⟨slots, free, ?_, ?_⟩
  · rw [State.endRun, hr]
    rfl
  · rw [State.endRun, hr]
    exact ⟨rfl, hs, hf⟩

/-- A job's end with an outcome (R118, R139). -/
theorem State.endJob_spec (s : State) (e : EngineId) (k : Key) (o : JobOutcome) (gen : Option Nat)
    (h : s.OneSlotPerKey) : s.JobEnded (s.endJob e k o gen) e k o gen 0#8 := by
  obtain ⟨slots, free, hr, he⟩ := s.endRun_spec e k h
  refine ⟨?_, ?_⟩
  · simp only [State.endJob, hr, State.placeEnd_eq, State.rescanAfter, State.port,
      Table.get_set_self, Table.set_set, Port.ended, plainEntry, BitVec.or_zero]
  · rw [State.endJob, State.placeEnd_eq]
    exact he

/-- An abandonment (R107, R141). -/
theorem State.abandon_spec (s : State) (e : EngineId) (c : Ctx) (sends : Bool) (attempts : Nat)
    (h : s.OneSlotPerKey) :
    s.JobAbandoned (s.abandon e c sends attempts) e c sends attempts := by
  obtain ⟨slots, free, hr, he⟩ := s.endRun_spec e c.job.key h
  cases sends
  · refine ⟨?_, ?_⟩
    · simp [State.abandon, State.requeue, State.decide, hr]
    · exact he
  · refine ⟨?_, ?_⟩
    · simp [State.abandon, State.requeue, State.decide, hr, State.placeEnd_eq, State.port, Port.ended,
        plainEntry]
    · simp only [State.abandon, State.requeue, State.placeEnd_eq, if_true]
      exact he

/-! ### The removal of training (R25, R119) -/

theorem State.runningPort_eq_some {s : State} {p : PortId} {e : EngineId} {c : Ctx}
    (h : s.runningPort p = some (e, c)) : (s.engine e).ctx = some c ∧ c.job.key.port = p := by
  simpa using State.runningWhere_eq_some h

theorem State.runningKey_eq_some {s : State} {k : Key} {e : EngineId} {c : Ctx}
    (h : s.runningKey k = some (e, c)) : (s.engine e).ctx = some c ∧ c.job.key = k := by
  simpa using State.runningWhere_eq_some h

theorem State.runningKey_eq_none {s : State} {k : Key} :
    s.runningKey k = none ↔ s.jobRunning k = false := by
  simp [State.jobRunning]

/-- A queue without a key's job is the queue where no job has the key. -/
theorem withoutKey_eq_self {k : Key} {q : List Job} (h : ∀ j ∈ q, j.key ≠ k) :
    withoutKey k q = q := by
  rw [withoutKey, List.filter_eq_self]
  intro j hj
  simpa using h j hj

/-- Where keys differ, taking out a key's job takes out one. -/
theorem length_withoutKey {k : Key} {q : List Job} (hd : (q.map Job.key).Nodup)
    (h : ∃ j ∈ q, j.key = k) : q.length - (withoutKey k q).length = 1 := by
  induction q with
  | nil => simp at h
  | cons a q ih =>
    simp only [List.map_cons, List.nodup_cons] at hd
    by_cases ha : a.key = k
    · have hq : withoutKey k q = q := withoutKey_eq_self fun j hj hk =>
        hd.1 (List.mem_map.mpr ⟨j, hj, by rw [hk, ha]⟩)
      have : withoutKey k (a :: q) = withoutKey k q := by simp [withoutKey, ha]
      rw [this, hq]
      simp
    · have hl : ∃ j ∈ q, j.key = k := by
        obtain ⟨j, hj, hk⟩ := h
        rcases List.mem_cons.mp hj with rfl | hj
        · exact absurd hk ha
        · exact ⟨j, hj, hk⟩
      have := ih hd.2 hl
      have : withoutKey k (a :: q) = a :: withoutKey k q := by simp [withoutKey, ha]
      rw [this]
      simpa using ih hd.2 hl

/-- In a sound queue a key with a QUEUED job has no running one (R103). -/
theorem State.QueueSound.not_both {s : State} (hq : s.QueueSound) {k : Key}
    (h : s.jobQueued k = true) : s.jobRunning k = false := by
  obtain ⟨_, hd, _, _⟩ := hq
  rw [List.map_append, List.nodup_append] at hd
  rw [Bool.eq_false_iff]
  intro hr
  obtain ⟨j, hj, hk⟩ := State.jobQueued_iff.mp h
  obtain ⟨j', hj', hk'⟩ := State.jobRunning_iff.mp hr
  exact hd.2.2 k (List.mem_map.mpr ⟨j, hj, hk⟩) k (List.mem_map.mpr ⟨j', hj', hk'⟩) rfl

/-- What the removal of training for a key leaves (R108, R118, R119, R142). -/
theorem State.cancelJobs_spec (s : State) (k : Key) (hq : s.QueueSound) (h1 : s.OneSlotPerKey) :
    s.TrainingRemoved (s.cancelJobs k) k := by
  have unqueued : s.jobQueued k = false → withoutKey k s.queued = s.queued := fun h =>
    withoutKey_eq_self fun j hj hk => by
      have := State.jobQueued_iff.mpr ⟨j, hj, hk⟩
      simp [h] at this
  refine ⟨fun h => ?_, fun h => ?_, fun e c h => ?_⟩
  · simp only [State.hasJob, Bool.or_eq_false_iff] at h
    have hr : s.runningKey k = none := State.runningKey_eq_none.mpr h.2
    simp [State.cancelJobs, unqueued h.1, State.rescanAfter, hr]
  · have hr : s.runningKey k = none := State.runningKey_eq_none.mpr (hq.not_both h)
    have hd : (s.queued.map Job.key).Nodup := by
      obtain ⟨_, hd, _, _⟩ := hq
      rw [List.map_append, List.nodup_append] at hd
      exact hd.1
    have hw := length_withoutKey hd (State.jobQueued_iff.mp h)
    have hr' : State.runningKey { s with queued := withoutKey k s.queued, rescans := s.rescans + 1 } k =
        none := hr
    simp only [State.cancelJobs, hw, State.rescanAfter, hr']
    rfl
  · have hq' : s.jobQueued k = false := by
      by_contra hn
      have := hq.not_both (Bool.eq_true_of_not_eq_false hn)
      simp [State.jobRunning, h] at this
    have hc : s.cancelJobs k = s.endJob e k .cancelled none := by
      simp only [State.cancelJobs, unqueued hq', Nat.sub_self, State.rescanAfter, Nat.add_zero, h]
      rw [(State.runningKey_eq_some h).2]
    rw [hc]
    obtain ⟨a, b⟩ := State.endJob_spec s e k .cancelled none h1
    refine ⟨?_, b⟩
    rw [a]
    simp

end Sys2Proof.Machine
end

