-- ==== Sys2Proof/Laws/Evaluate.lean ====
section
/-! SUPPORT. Placing frames, and an evaluation of conditions with the effects of the transitions into
STALE. -/

namespace Sys2Proof.Machine

/-! ### Placing a frame (R72 to R74) -/

/-- Placing a frame changes the pending and the held-back frames alone. -/
theorem Port.place_eq (e : OutEntry) (x : Port) :
    x.place e = { x with pend := (x.place e).pend, heldBack := (x.place e).heldBack } := by
  simp only [Port.place]
  split_ifs <;> rfl

@[simp] theorem Port.place_state (e : OutEntry) (x : Port) : (x.place e).state = x.state := by
  rw [Port.place_eq]

@[simp] theorem Port.place_autotrain (e : OutEntry) (x : Port) :
    (x.place e).autotrain = x.autotrain := by rw [Port.place_eq]

@[simp] theorem Port.place_temp (e : OutEntry) (x : Port) : (x.place e).temp = x.temp := by
  rw [Port.place_eq]

@[simp] theorem Port.place_reqs (e : OutEntry) (x : Port) : (x.place e).reqs = x.reqs := by
  rw [Port.place_eq]

@[simp] theorem Port.place_tx (e : OutEntry) (x : Port) : (x.place e).tx = x.tx := by
  rw [Port.place_eq]

/-- The place a held-back frame waits for, after a removal, is one of the list left (R72). -/
theorem Port.placeAfter_le (drop : OutFrame → Bool) (x : Port) (w : Nat) :
    x.placeAfter drop w ≤ (x.removePending drop).outLen := by
  have kept := ((x.pend.take_sublist (w - x.tx.toList.length)).countP_le
    (p := fun e => !drop e.frame)).trans_eq List.countP_eq_length_filter
  simp only [Port.placeAfter, Port.removePending, Port.outLen]
  split_ifs <;> omega

/-- The frame nearest the head is on the list (R72). -/
theorem Port.firstPlain_le (x : Port) : x.firstPlain ≤ x.outLen := by
  unfold Port.firstPlain Port.outLen
  split
  · rename_i i h
    have := (List.findIdx?_eq_some_iff_getElem.mp h).1
    omega
  · exact Nat.zero_le _

@[simp] theorem Port.placeNotice_state (c : ClassId) (k : NoticeKind) (g : Nat) (x : Port) :
    (x.placeNotice c k g).state = x.state := by simp [Port.placeNotice, Port.removePending]

@[simp] theorem Port.placeNotice_autotrain (c : ClassId) (k : NoticeKind) (g : Nat) (x : Port) :
    (x.placeNotice c k g).autotrain = x.autotrain := by simp [Port.placeNotice, Port.removePending]

/-! ### Transitions into STALE (R43 to R45) -/

/-- The port of `r` as a transition into STALE of `r` leaves it. -/
def staleNotice (p : PortId) (x : Port) (r : Record) : Port :=
  if r.key.port = p ∧ r.applied.isSome ∧ x.state = .online then x.placeNotice r.key.cls .stale r.gen
  else x

@[simp] theorem staleNotice_state (p : PortId) (x : Port) (r : Record) :
    (staleNotice p x r).state = x.state := by
  simp only [staleNotice]
  split_ifs <;> simp

@[simp] theorem staleNotice_autotrain (p : PortId) (x : Port) (r : Record) :
    (staleNotice p x r).autotrain = x.autotrain := by
  simp only [staleNotice]
  split_ifs <;> simp

theorem foldl_staleNotice (p : PortId) (l : List Record) (x : Port) :
    (l.foldl (staleNotice p) x).state = x.state ∧
      (l.foldl (staleNotice p) x).autotrain = x.autotrain := by
  induction l generalizing x with
  | nil => exact ⟨rfl, rfl⟩
  | cons r l ih =>
    obtain ⟨h1, h2⟩ := ih (staleNotice p x r)
    exact ⟨by simp [h1], by simp [h2]⟩

/-- The effects of a transition into STALE of one record. -/
theorem State.turnedStale_spec (s : State) (r : Record) :
    (s.turnedStale r = { s with
      ports := (s.turnedStale r).ports, autoReqs := (s.turnedStale r).autoReqs
      events := (s.turnedStale r).events }) ∧
    s.StaleEffects (s.turnedStale r) [r] := by
  have hport : ∀ p, (s.notify r .stale r.gen).port p = staleNotice p (s.port p) r := by
    intro p
    simp only [State.notify, staleNotice]
    by_cases hp : r.key.port = p
    · subst hp
      by_cases h : r.applied.isSome = true ∧ (s.port r.key.port).state = .online
      · simp [h]
      · rw [if_neg h, if_neg (by tauto)]
    · have hne : ∀ a b : Port, (if r.key.port = p ∧ r.applied.isSome = true ∧
          (s.port p).state = .online then a else b) = b := fun a b => if_neg fun h => hp h.1
      rw [hne]
      split_ifs
      · rw [State.port_modPort, if_neg hp]
      · rfl
  have hn : s.notify r .stale r.gen = { s with ports := (s.notify r .stale r.gen).ports } := by
    simp only [State.notify]
    split_ifs <;> rfl
  have hauto : ((s.notify r .stale r.gen).port r.key.port).autotrain =
      (s.port r.key.port).autotrain := by rw [hport]; simp
  have hstate : ((s.notify r .stale r.gen).port r.key.port).state = (s.port r.key.port).state := by
    rw [hport]; simp
  have hreq : (s.notify r .stale r.gen).autoReqs = s.autoReqs := by rw [hn]
  have hev : (s.notify r .stale r.gen).events = s.events := by rw [hn]
  have hasks : s.asksTraining r = true ↔
      ((s.port r.key.port).autotrain = true ∧ (s.port r.key.port).state ≠ .offline) ∧
        r.holdOff = false := by simp [State.asksTraining]
  have hsees : s.seesStale r = true ↔
      (s.port r.key.port).autotrain = false ∨ (s.port r.key.port).state = .offline := by
    simp [State.seesStale]
  simp only [State.turnedStale, State.staleRequest, hauto, hstate, Bool.not_eq_true']
  by_cases h1 : (s.port r.key.port).autotrain = false ∨ (s.port r.key.port).state = .offline
  · rw [if_pos h1]
    have ha : s.asksTraining r = false := by
      rw [Bool.eq_false_iff, ne_eq, hasks]
      rcases h1 with h | h <;> simp [h]
    refine ⟨by rw [State.raise, hn], fun p => hport p, ?_, ?_⟩
    · simp [State.raise, hreq, ha]
    · simp [State.raise, hev, hsees.mpr h1, EventFlag.mask, EventFlag.bit]
  · rw [if_neg h1]
    have hs : s.seesStale r = false := by rw [Bool.eq_false_iff, ne_eq, hsees]; exact h1
    by_cases h2 : r.holdOff = true
    · rw [if_pos h2]
      have ha : s.asksTraining r = false := by
        rw [Bool.eq_false_iff, ne_eq, hasks]
        simp [h2]
      refine ⟨by rw [hn], fun p => hport p, ?_, ?_⟩
      · simp [hreq, ha]
      · simp [hev, hs]
    · rw [if_neg h2]
      have ha : s.asksTraining r = true := by
        rw [hasks]
        simp only [not_or, Bool.not_eq_false] at h1
        exact ⟨h1, by simpa using h2⟩
      refine ⟨by rw [hn], fun p => hport p, ?_, ?_⟩
      · simp [hreq, ha]
      · simp [hev, hs]

/-- Effects one after the other. -/
theorem State.StaleEffects.append {s t u : State} {a b : List Record} (h : s.StaleEffects t a)
    (h' : t.StaleEffects u b) : s.StaleEffects u (a ++ b) := by
  obtain ⟨hp, hq, he⟩ := h
  obtain ⟨hp', hq', he'⟩ := h'
  have hport : ∀ p, t.port p = a.foldl (staleNotice p) (s.port p) := hp
  have hasks : ∀ r, t.asksTraining r = s.asksTraining r := by
    intro r
    simp [State.asksTraining, hport, foldl_staleNotice]
  have hsees : ∀ r, t.seesStale r = s.seesStale r := by
    intro r
    simp [State.seesStale, hport, foldl_staleNotice]
  refine ⟨fun p => ?_, ?_, ?_⟩
  · rw [hp' p, hp p, List.foldl_append]
  · simp only [hq', hq, funext hasks, List.filter_append, List.map_append, List.append_assoc]
  · rw [he', he, List.any_append]
    simp only [funext hsees]
    cases a.any s.seesStale <;> cases b.any s.seesStale <;>
      simp [BitVec.or_assoc]

/-! ### Evaluations (R35, R41, R43) -/

/-- The records among `slots` that taking the conditions `f` gives turns STALE, as they then stand. -/
def State.turning (s : State) (f : Record → Condition) (slots : List SlotId) : List Record :=
  slots.filterMap fun i => (s.slot i).record?.bind fun r =>
    if f r = .stale ∧ r.cond ≠ .stale then some { r with cond := f r } else none

/-- One record takes the condition `f` gives it. -/
theorem State.setCondition_spec (s : State) (i : SlotId) (f : Record → Condition) {r : Record}
    (h : s.slot i = .occupied r) :
    (s.setCondition i (f r) = { s with
      slots := s.slots.set i (.occupied { r with cond := f r })
      ports := (s.setCondition i (f r)).ports, autoReqs := (s.setCondition i (f r)).autoReqs
      events := (s.setCondition i (f r)).events }) ∧
    s.StaleEffects (s.setCondition i (f r)) (s.turning f [i]) := by
  simp only [State.setCondition, h, State.turning, List.filterMap_cons, List.filterMap_nil,
    Slot.record?, Option.bind_some]
  by_cases hc : f r = .stale ∧ r.cond ≠ .stale
  · rw [if_pos hc, if_pos hc]
    obtain ⟨h1, h2⟩ := (s.setSlot i (.occupied { r with cond := f r })).turnedStale_spec
      { r with cond := f r }
    exact ⟨h1, h2⟩
  · rw [if_neg hc, if_neg hc]
    exact ⟨rfl, fun _ => rfl, by simp, by simp⟩

/-- What an evaluation leaves: the conditions `f` gives, the effects of the transitions into STALE, and
nothing else changed. -/
theorem State.evaluate_spec (s : State) (f : Record → Condition) :
    (s.evaluate f = { s with
      slots := (s.evaluate f).slots, ports := (s.evaluate f).ports
      autoReqs := (s.evaluate f).autoReqs, events := (s.evaluate f).events }) ∧
    s.Evaluated (s.evaluate f) f := by
  have walk : ∀ (l : List SlotId) (t : State), l.Nodup →
      ∃ u, l.foldl (fun t i => match t.slot i with
        | .occupied r => t.setCondition i (f r)
        | .free | .reserved _ _ => t) t = u ∧
      (u = { t with slots := u.slots, ports := u.ports, autoReqs := u.autoReqs, events := u.events }) ∧
      (∀ i, u.slot i = if i ∈ l then (t.slot i).mapRecord fun r => { r with cond := f r }
        else t.slot i) ∧
      t.StaleEffects u (t.turning f l) := by
    intro l
    induction l with
    | nil =>
      intro t _
      exact ⟨t, rfl, rfl, fun i => by simp, fun _ => rfl, by simp [State.turning],
        by simp [State.turning]⟩
    | cons i l ih =>
      intro t hl
      obtain ⟨hi, hl⟩ := List.nodup_cons.mp hl
      obtain ⟨v, hv, hveq, hvslot, hveff⟩ : ∃ v, (match t.slot i with
          | .occupied r => t.setCondition i (f r)
          | .free | .reserved _ _ => t) = v ∧
          (v = { t with
            slots := v.slots, ports := v.ports, autoReqs := v.autoReqs, events := v.events }) ∧
          (∀ j, v.slot j = if j = i then (t.slot i).mapRecord fun r => { r with cond := f r }
            else t.slot j) ∧
          t.StaleEffects v (t.turning f [i]) := by
        rcases hx : t.slot i with _ | ⟨k, n⟩ | r
        · have hnone : t.turning f [i] = [] := by simp [State.turning, hx, Slot.record?]
          rw [hnone]
          refine ⟨t, rfl, rfl, fun j => ?_, fun _ => rfl, by simp, by simp⟩
          split_ifs with h
          · rw [h, hx]
            rfl
          · rfl
        · have hnone : t.turning f [i] = [] := by simp [State.turning, hx, Slot.record?]
          rw [hnone]
          refine ⟨t, rfl, rfl, fun j => ?_, fun _ => rfl, by simp, by simp⟩
          split_ifs with h
          · rw [h, hx]
            rfl
          · rfl
        · obtain ⟨h1, h2⟩ := t.setCondition_spec i f hx
          refine ⟨_, rfl, ?_, fun j => ?_, h2⟩
          · simp only
            rw [h1]
          · simp only
            rw [h1]
            simp only [State.slot, Table.get_set, Slot.mapRecord]
            split_ifs with ha hb hb
            · rfl
            · exact absurd ha.symm hb
            · exact absurd hb.symm ha
            · rfl
      obtain ⟨u, hu, hueq, huslot, hueff⟩ := ih v hl
      have hturn : v.turning f l = t.turning f l := by
        apply List.filterMap_congr
        intro j hj
        have : j ≠ i := fun h => hi (h ▸ hj)
        rw [hvslot, if_neg this]
      refine ⟨u, by rw [List.foldl_cons, hv, hu], ?_, fun j => ?_, ?_⟩
      · rw [hueq, hveq]
      · rw [huslot, hvslot]
        by_cases hj : j = i
        · subst hj
          simp [hi]
        · simp [hj]
      · have := hveff.append hueff
        rw [hturn] at this
        have happ : t.turning f (i :: l) = t.turning f [i] ++ t.turning f l := by
          rw [State.turning, State.turning, State.turning, ← List.filterMap_append]
          rfl
        rw [happ]
        exact this
  obtain ⟨u, hu, hueq, huslot, hueff⟩ := walk (List.finRange 24) s (List.nodup_finRange 24)
  have he : s.evaluate f = u := hu
  rw [he]
  refine ⟨hueq, fun i => by rw [huslot, if_pos (List.mem_finRange i)], ?_⟩
  have : s.turned u = s.turning f (List.finRange 24) := by
    apply List.filterMap_congr
    intro i _
    rw [huslot, if_pos (List.mem_finRange i)]
    rcases s.slot i with _ | ⟨k, n⟩ | r
    · rfl
    · rfl
    · simp only [Slot.mapRecord, Slot.record?, Option.any_some, Option.bind_some]
      by_cases hc : f r = .stale ∧ r.cond ≠ .stale
      · simp [Option.filter, hc.1, hc.2]
      · rw [if_neg hc]
        by_cases h1 : f r = .stale
        · have h2 : r.cond = .stale := by
            by_contra h2
            exact hc ⟨h1, h2⟩
          simp [Option.filter, h2]
        · have h3 : (f r == .stale) = false := by simpa using h1
          simp [Option.filter, h3]
  rw [this]
  exact hueff

end Sys2Proof.Machine
end

