-- ==== Sys2Proof/Laws/Frontend.lean ====
section
/-! SUPPORT. What the front end does: bits back to bytes, events in a row one after the other, and what
each event leaves of State. -/

namespace Sys2Proof.Machine

/-! ### Bits and bytes -/

@[simp] theorem charLevels_length (b : Byte) : (charLevels b).length = 10 := by simp [charLevels]

@[simp] theorem msbFirst_length (b : Byte) : (msbFirst b).length = 8 := by simp [msbFirst]

/-- A character's data bits are its byte. -/
theorem byteOfLsbFirst_bits : ∀ b : Byte, byteOfLsbFirst ((List.range 8).map b.getLsbD) = b := by
  decide +kernel

/-- A byte's bits, most significant first, are the byte. -/
theorem byteOfMsbFirst_msbFirst : ∀ b : Byte, byteOfMsbFirst (msbFirst b) = b := by decide +kernel

/-- A frame's levels are ten for each byte on the line. -/
theorem OutFrame.levels_length (f : OutFrame) : f.levels.length = 10 * f.wire.length := by
  simp [OutFrame.levels, List.length_flatMap, Nat.mul_comm]

/-! ### Events in a row -/

/-- A row of events that reaches `t` is gone on with from `t`. -/
theorem State.takeChars_append (p : PortId) (xs ys : List LineChar) (s t : State)
    (h : s.takeChars p xs = .next t) : s.takeChars p (xs ++ ys) = t.takeChars p ys := by
  induction xs generalizing s with
  | nil => cases h; rfl
  | cons x xs ih =>
    simp only [State.takeChars, List.cons_append] at h ⊢
    cases e : s.takeChar p x with
    | next u => rw [e] at h; exact ih u h
    | fault r => rw [e] at h; cases h
    | refused r => rw [e] at h; cases h

theorem State.takeLevels_append (p : PortId) (xs ys : List Bool) (s t : State)
    (h : s.takeLevels p xs = .next t) : s.takeLevels p (xs ++ ys) = t.takeLevels p ys := by
  induction xs generalizing s with
  | nil => cases h; rfl
  | cons x xs ih =>
    simp only [State.takeLevels, List.cons_append] at h ⊢
    cases e : s.takeLevel p x with
    | next u => rw [e] at h; exact ih u h
    | fault r => rw [e] at h; cases h
    | refused r => rw [e] at h; cases h

theorem State.sampleBits_append (xs ys : List Bool) (s t : State)
    (h : s.sampleBits xs = .next t) : s.sampleBits (xs ++ ys) = t.sampleBits ys := by
  induction xs generalizing s with
  | nil => cases h; rfl
  | cons x xs ih =>
    simp only [State.sampleBits, List.cons_append] at h ⊢
    cases e : s.sckRise x with
    | next u => rw [e] at h; exact ih u h
    | fault r => rw [e] at h; cases h
    | refused r => rw [e] at h; cases h

/-! ### What each event leaves -/

section InPhase
variable (s : State) (phase : SpiPhase)

theorem State.inPhase_eq : s.inPhase phase = { s with spi := some ⟨phase, []⟩ } := rfl

@[simp] theorem State.inPhase_spi : (s.inPhase phase).spi = some ⟨phase, []⟩ := rfl
@[simp] theorem State.inPhase_mb : (s.inPhase phase).mb = s.mb := rfl
@[simp] theorem State.port_inPhase (p : PortId) : (s.inPhase phase).port p = s.port p := rfl
@[simp] theorem State.slot_inPhase (i : SlotId) : (s.inPhase phase).slot i = s.slot i := rfl
@[simp] theorem State.engine_inPhase (e : EngineId) : (s.inPhase phase).engine e = s.engine e := rfl
@[simp] theorem State.inPhase_inPhase (phase' : SpiPhase) :
    (s.inPhase phase).inPhase phase' = s.inPhase phase' := rfl

end InPhase

/-- While CS_N is high, SCK and MOSI do nothing (R170). -/
theorem State.sckRise_of_none {s : State} (h : s.spi = none) (mosi : Bool) :
    s.sckRise mosi = .next s := by simp [State.sckRise, h]

theorem State.sckFall_of_none {s : State} (h : s.spi = none) : s.sckFall = s := by
  simp [State.sckFall, h]

/-- A stopped receiver takes no character (R50). -/
theorem State.takeChar_of_stopped {s : State} {p : PortId} (h : (s.port p).rx = .stopped)
    (c : LineChar) : s.takeChar p c = .next s := by simp [State.takeChar, h]

/-- A character hunted through changes nothing (R51). -/
theorem State.takeChar_of_hunting {s : State} {p : PortId} (h : (s.port p).rx = .hunting)
    {c : LineChar} (hc : ¬(c.stop ∧ c.value = Config.startByte)) : s.takeChar p c = .next s := by
  simp only [State.takeChar, h, hc, if_false]

/-- A byte that ends no frame is kept (R51). -/
theorem State.takeChar_of_inFrame {s : State} {p : PortId} {taken : List Byte}
    (h : (s.port p).rx = .inFrame taken) {c : LineChar} (hc : frameChar p taken c = none) :
    s.takeChar p c = .next (s.modPort p fun x => { x with rx := .inFrame (taken ++ [c.value]) }) := by
  simp [State.takeChar, h, hc]

/-- The character that ends a frame runs the command it makes (R51, R53). -/
theorem State.takeChar_of_command {s : State} {p : PortId} {taken : List Byte}
    (h : (s.port p).rx = .inFrame taken) {c : LineChar} {i : Instr}
    (hc : frameChar p taken c = some i) : s.takeChar p c = exec i s := by
  simp [State.takeChar, h, hc]

/-- Payload bytes in reception are kept, each in its turn (R51). -/
theorem State.takeChars_payload (p : PortId) (kind tag n : Byte) (rest done : List Byte) (s : State)
    (tail : List LineChar) (h : (s.port p).rx = .inFrame (kind :: tag :: n :: done))
    (hn : done.length + rest.length = n.toNat) :
    s.takeChars p (rest.map (fun b => ⟨b, true⟩) ++ tail) =
      (s.modPort p fun x => { x with rx := .inFrame (kind :: tag :: n :: (done ++ rest)) }).takeChars p
        tail := by
  induction rest generalizing done s with
  | nil =>
    rw [State.modPort_eq_self]
    · simp
    · simp [← h]
  | cons b rest ih =>
    simp only [List.length_cons] at hn
    have notFull : frameFull (kind :: tag :: n :: done) = false := by simp [frameFull]; omega
    have kept := State.takeChar_of_inFrame h (c := ⟨b, true⟩) (by simp [frameChar, notFull])
    simp only [List.map_cons, List.cons_append, State.takeChars, kept]
    rw [ih (done ++ [b]) _ (by simp) (by simp; omega)]
    simp

/-- The falling edge of SCK inside a data byte brings its next bit (R170). -/
@[simp] theorem State.sckFall_inPhase_read (s : State) (addr : BitVec 16) (captured : Option Byte)
    (x y : Bool) (bits : List Bool) :
    (s.inPhase (.read addr captured (x :: y :: bits))).sckFall =
      s.inPhase (.read addr captured (y :: bits)) := by
  simp [State.sckFall, State.inPhase]

/-- The falling edge of SCK after a byte, or before the first, makes the next read access (R170). -/
theorem State.sckFall_of_read {s : State} {addr : BitVec 16} {captured : Option Byte}
    {driving sampled : List Bool} (h : s.spi = some ⟨.read addr captured driving, sampled⟩)
    (hd : driving.length ≤ 1) : s.sckFall = s.driveByte addr captured := by
  simp [State.sckFall, h, hd]

end Sys2Proof.Machine
end

