-- ==== Sys2Proof/Laws/Memory.lean ====
section
/-! SUPPORT. The buffer's canonical form: every memory operation keeps it, a read after a write, the
bytes of a buffer made from a list, and equal reads make equal buffers. -/

namespace Sys2Proof.Machine

/-! ### The canonical form is kept -/

theorem Memory.wfFrom_cons {m : Memory} {lo a : Nat} {b : Byte} :
    Memory.wfFrom lo ((a, b) :: m) = true ↔
      lo ≤ a ∧ a < Config.bufferBytes ∧ b ≠ 0 ∧ m.wfFrom (a + 1) = true := by
  simp only [Memory.wfFrom, Bool.and_eq_true, decide_eq_true_eq, bne_iff_ne, ne_eq, and_assoc]

theorem Memory.wfFrom_mono {m : Memory} {lo lo' : Nat} (h : lo' ≤ lo) (hw : m.wfFrom lo = true) :
    m.wfFrom lo' = true := by
  cases m with
  | nil => rfl
  | cons x m =>
    obtain ⟨h1, h2⟩ := Memory.wfFrom_cons.mp hw
    exact Memory.wfFrom_cons.mpr ⟨by omega, h2⟩

theorem Memory.wfFrom_store {m : Memory} {lo a : Nat} {v : Byte} (hlo : lo ≤ a)
    (ha : a < Config.bufferBytes) (hw : m.wfFrom lo = true) : (m.store a v).wfFrom lo = true := by
  induction m generalizing lo with
  | nil =>
    rw [Memory.store]
    split_ifs with hv
    · rfl
    · exact Memory.wfFrom_cons.mpr ⟨hlo, ha, hv, rfl⟩
  | cons x m ih =>
    obtain ⟨y, b⟩ := x
    obtain ⟨h1, h2, h3, h4⟩ := Memory.wfFrom_cons.mp hw
    rw [Memory.store]
    split_ifs with c1 c2 c3 c4
    · exact hw
    · exact Memory.wfFrom_cons.mpr ⟨hlo, ha, c2, Memory.wfFrom_cons.mpr ⟨c1, h2, h3, h4⟩⟩
    · exact Memory.wfFrom_mono (by omega) h4
    · exact Memory.wfFrom_cons.mpr ⟨hlo, ha, c4, c3 ▸ h4⟩
    · exact Memory.wfFrom_cons.mpr ⟨h1, h2, h3, ih (by omega) h4⟩

/-- A write keeps the canonical form. -/
theorem Memory.wf_write {m : Memory} (a : Nat) (v : Byte) (hw : m.wf = true) :
    (m.write a v).wf = true := by
  rw [Memory.write]
  split_ifs with ha
  · exact Memory.wfFrom_store (Nat.zero_le a) ha hw
  · exact hw

theorem Memory.wfFrom_ofBytesFrom (off : Nat) (bytes : List Byte) :
    (Memory.ofBytesFrom off bytes).wfFrom off = true := by
  induction bytes generalizing off with
  | nil => rfl
  | cons b bs ih =>
    rw [Memory.ofBytesFrom]
    split_ifs with h
    · exact Memory.wfFrom_cons.mpr ⟨Nat.le_refl off, h.1, h.2, ih _⟩
    · exact Memory.wfFrom_mono (Nat.le_succ off) (ih _)

/-- A buffer a command writes is canonical. -/
theorem Memory.wf_ofBytes (bytes : List Byte) : (Memory.ofBytes bytes).wf = true :=
  Memory.wfFrom_ofBytesFrom 0 bytes

/-- The buffer after hardware reset is canonical. -/
theorem State.reset_buffer_wf : State.reset.mb.buffer.wf = true := rfl

/-! ### Reads -/

/-- Nothing is listed below the bound of the canonical form. -/
theorem Memory.read_of_lt {m : Memory} {lo a : Nat} (hw : m.wfFrom lo = true) (h : a < lo) :
    m.read a = 0 := by
  induction m generalizing lo with
  | nil => rfl
  | cons x m ih =>
    obtain ⟨h1, _, _, h4⟩ := Memory.wfFrom_cons.mp hw
    rw [Memory.read, if_neg (by omega)]
    exact ih h4 (by omega)

/-- Nothing is listed beyond the buffer. -/
theorem Memory.read_of_ge {m : Memory} {lo a : Nat} (hw : m.wfFrom lo = true)
    (h : Config.bufferBytes ≤ a) : m.read a = 0 := by
  induction m generalizing lo with
  | nil => rfl
  | cons x m ih =>
    obtain ⟨_, h2, _, h4⟩ := Memory.wfFrom_cons.mp hw
    rw [Memory.read, if_neg (by omega)]
    exact ih h4

theorem Memory.read_cons (m : Memory) (x a : Nat) (b : Byte) :
    Memory.read ((x, b) :: m) a = if x = a then b else m.read a := rfl

theorem Memory.read_store {m : Memory} {lo a b : Nat} {v : Byte} (hw : m.wfFrom lo = true) :
    (m.store a v).read b = if b = a then v else m.read b := by
  induction m generalizing lo with
  | nil =>
    rw [Memory.store]
    split_ifs with hv hb hb
    · exact hv.symm
    · rfl
    · rw [Memory.read_cons, if_pos hb.symm]
    · rw [Memory.read_cons, if_neg (Ne.symm hb)]
  | cons x m ih =>
    obtain ⟨y, c⟩ := x
    obtain ⟨h1, h2, h3, h4⟩ := Memory.wfFrom_cons.mp hw
    have hbelow : ∀ z, z ≤ y → Memory.read m z = 0 := fun z hz =>
      Memory.read_of_lt h4 (Nat.lt_succ_of_le hz)
    rw [Memory.store]
    by_cases hb : b = a
    · subst hb
      rw [if_pos rfl]
      split_ifs with c1 c2 c3 c4
      · rw [Memory.read_cons, if_neg (by omega), hbelow _ (by omega), c2]
      · rw [Memory.read_cons, if_pos rfl]
      · rw [hbelow _ (by omega), c4]
      · rw [Memory.read_cons, if_pos rfl]
      · rw [Memory.read_cons, if_neg c3, ih h4, if_pos rfl]
    · rw [if_neg hb]
      split_ifs with c1 c2 c3 c4
      · rfl
      · rw [Memory.read_cons, if_neg (Ne.symm hb)]
      · rw [Memory.read_cons, if_neg (by omega)]
      · rw [Memory.read_cons, if_neg (Ne.symm hb), Memory.read_cons, if_neg (by omega)]
      · rw [Memory.read_cons, Memory.read_cons, ih h4, if_neg hb]

/-- A read after a write of one of the 96 bytes. -/
theorem Memory.read_write {m : Memory} {a : Nat} (b : Nat) (v : Byte) (hw : m.wf = true)
    (ha : a < Config.bufferBytes) : (m.write a v).read b = if b = a then v else m.read b := by
  rw [Memory.write, if_pos ha, Memory.read_store hw]

theorem Memory.read_ofBytesFrom (off a : Nat) (bytes : List Byte) :
    (Memory.ofBytesFrom off bytes).read a =
      if off ≤ a ∧ a < Config.bufferBytes then bytes.getD (a - off) 0 else 0 := by
  induction bytes generalizing off with
  | nil => simp [Memory.ofBytesFrom, Memory.read]
  | cons b bs ih =>
    have later : off ≠ a → (Memory.ofBytesFrom (off + 1) bs).read a =
        if off ≤ a ∧ a < Config.bufferBytes then (b :: bs).getD (a - off) 0 else 0 := by
      intro ha
      rw [ih]
      by_cases h : off + 1 ≤ a ∧ a < Config.bufferBytes
      · rw [if_pos h, if_pos ⟨by omega, h.2⟩, show a - off = (a - (off + 1)) + 1 by omega]
        rfl
      · rw [if_neg h, if_neg (by omega)]
    rw [Memory.ofBytesFrom]
    by_cases ha : off = a
    · subst ha
      split_ifs with h1 h2 h2
      · rw [Memory.read_cons, if_pos rfl, Nat.sub_self]
        rfl
      · exact absurd ⟨Nat.le_refl off, h1.1⟩ h2
      · have hb : b = 0 := by
          by_contra hb
          exact h1 ⟨h2.2, hb⟩
        rw [ih, if_neg (by omega), Nat.sub_self, hb]
        rfl
      · rw [ih, if_neg (by omega)]
    · rw [← later ha]
      by_cases h1 : off < Config.bufferBytes ∧ b ≠ 0
      · rw [if_pos h1, Memory.read_cons, if_neg ha]
      · rw [if_neg h1]

/-- What a buffer made from a list of bytes holds. -/
theorem Memory.read_ofBytes (a : Nat) (bytes : List Byte) :
    (Memory.ofBytes bytes).read a = if a < Config.bufferBytes then bytes.getD a 0 else 0 := by
  rw [Memory.ofBytes, Memory.read_ofBytesFrom]
  simp

/-! ### Equal reads, equal buffers -/

theorem Memory.ext_from {m n : Memory} {lo : Nat} (hm : m.wfFrom lo = true) (hn : n.wfFrom lo = true)
    (h : ∀ a, m.read a = n.read a) : m = n := by
  induction m generalizing n lo with
  | nil =>
    cases n with
    | nil => rfl
    | cons y n =>
      obtain ⟨y, c⟩ := y
      obtain ⟨_, _, hc, _⟩ := Memory.wfFrom_cons.mp hn
      have := h y
      rw [Memory.read_cons, if_pos rfl] at this
      exact absurd this.symm hc
  | cons x m ih =>
    obtain ⟨x, b⟩ := x
    obtain ⟨_, _, hb, hm'⟩ := Memory.wfFrom_cons.mp hm
    cases n with
    | nil =>
      have := h x
      rw [Memory.read_cons, if_pos rfl] at this
      exact absurd this hb
    | cons y n =>
      obtain ⟨y, c⟩ := y
      obtain ⟨_, _, hc, hn'⟩ := Memory.wfFrom_cons.mp hn
      have hxy : x = y := by
        rcases Nat.lt_trichotomy x y with hlt | heq | hgt
        · have := h x
          rw [Memory.read_cons, if_pos rfl, Memory.read_cons, if_neg (by omega),
            Memory.read_of_lt hn' (by omega)] at this
          exact absurd this hb
        · exact heq
        · have := h y
          rw [Memory.read_cons, if_neg (by omega), Memory.read_of_lt hm' (by omega),
            Memory.read_cons, if_pos rfl] at this
          exact absurd this.symm hc
      subst hxy
      have hbc : b = c := by
        have := h x
        rwa [Memory.read_cons, if_pos rfl, Memory.read_cons, if_pos rfl] at this
      subst hbc
      refine congrArg _ (ih hm' hn' fun a => ?_)
      by_cases ha : x = a
      · subst ha
        rw [Memory.read_of_lt hm' (Nat.lt_succ_self x), Memory.read_of_lt hn' (Nat.lt_succ_self x)]
      · have := h a
        rwa [Memory.read_cons, if_neg ha, Memory.read_cons, if_neg ha] at this

/-- Canonical buffers that read alike are equal. -/
theorem Memory.ext_read {m n : Memory} (hm : m.wf = true) (hn : n.wf = true)
    (h : ∀ a, m.read a = n.read a) : m = n := Memory.ext_from hm hn h

end Sys2Proof.Machine
end

