-- ==== Sys2Proof/Tests/Slice0.lean ====
section
/-! SUPPORT. The model's own tests: the refusals of `wellFormed`, one step of each command on a small
state, and states that meet the hypotheses of each statement (test_hyps_<statement>). -/

set_option Elab.async false

namespace Sys2Proof.Tests

open Sys2Proof Sys2Proof.Machine

/-! ### Small states -/

/-- The next state of an outcome; none where it stops. -/
def reached : Host.Outcome State Fault Refusal → Option State
  | .next t => some t
  | .fault _ => none
  | .refused _ => none

/-- The state a command leaves; none where it stops. -/
def ran (i : Instr) (s : State) : Option State := reached (exec i s)

/-- A profile of two lanes without reference. -/
def prof2 : Profile := { Profile.reset with laneCount := 2 }

/-- A profile of one lane with reference. -/
def profRef : Profile := { Profile.reset with laneCount := 1, refEnable := true }

/-- Port 0 with class 0 of two lanes and class 1 of one lane with reference; every port OFFLINE. -/
def configured : State :=
  { State.reset with
    profiles := State.reset.profiles.set 0 (((Table.fill 4 Profile.reset).set 0 prof2).set 1 profRef) }

/-- Port 0 in a state, at a temperature. -/
def inState (st : PortState) (temp : TempState) : State :=
  { configured with
    ports := configured.ports.set 0 { Port.reset with state := st, rx := .hunting, temp := temp } }

/-- Port 0 ONLINE and FRESH at 50.0 °C. -/
def online : State := inState .online (.fresh 100 ⟨0, 2500000⟩)

def lanes2 : List LaneEntry := [⟨20, 12, none, .good, 0⟩, ⟨62, 0, none, .failed, 0⟩]

/-- A CURRENT record of P0/C0, applied. -/
def rec0 : Record := ⟨⟨0, 0⟩, .current, 3, some 3, .trained, 100, 5, false, false, 5, 2, lanes2, 0⟩

/-- `s` with record `r` of two lanes in slot 0, and the counter at its stamp. -/
def withRecord (r : Record) (s : State) : State :=
  { s with slots := s.slots.set 0 (.occupied r), free := 190, stamp := r.stamp }

def stored : State := withRecord rec0 online

/-- `s` with one request at port 0. -/
def asked (body : ReqBody) (s : State) : State :=
  { s with ports := s.ports.set 0 { s.port 0 with reqs := [⟨7, body⟩] } }

/-- `s` with a command of the mailbox standing, and the pointer at the mailbox. -/
def commanded (code port cls urgency : Byte) (buffer : Memory) (s : State) : State :=
  { s with arb := 8, mb := { s.mb with copy := some ⟨code, port, cls, urgency, some buffer⟩ } }

def job0 : Job := ⟨⟨0, 0⟩, .auto, .routine, 0⟩

/-- A job of P0/C0 in a phase, with a store request. -/
def ctx0 (phase : Phase) (request : Option StoreRequest) : Ctx where
  job := job0
  phase := phase
  index := 0
  outstanding := none
  leaving := none
  timer := none
  retry := false
  profile := prof2
  patterns := resetPatterns
  startTemp := 100
  prior := none
  delayMap := [List.replicate 64 none, List.replicate 64 none]
  delayEye := []
  refMap := []
  refEye := []
  request := request

/-- `s` with context `c` on E0. -/
def running (c : Ctx) (s : State) : State := s.setCtx 0 (some c)

/-- A job that awaits the response to trial id 9, its frame gone and its timer running. -/
def awaitingResponse (phase : Phase) (index : Nat) : Ctx :=
  { ctx0 phase none with index := index, outstanding := some 9, timer := some ⟨0, 50000⟩ }

/-- The record in slot `i` of the full store: the candidates of the example of 1.5, and pinned ones. -/
def fullRecord (i : SlotId) : Record :=
  let r : Record :=
    { rec0 with
      key := ⟨⟨i.val / 4 + 2, by omega⟩, ⟨i.val % 4, by omega⟩⟩, applied := none
      stamp := 500 + i.val, pinned := true, laneCount := if i.val < 16 then 9 else 8 }
  match i.val with
  | 3 => { r with pinned := false, stamp := 211, laneCount := 4 }
  | 9 => { r with pinned := false, stamp := 140, laneCount := 2, cond := .dormant }
  | 14 => { r with pinned := false, stamp := 305, laneCount := 1, cond := .stale }
  | 17 => { r with pinned := false, stamp := 96, laneCount := 4, cond := .dormant }
  | _ => r

/-- The full store of the example of 1.5, 6 entries free. -/
def full : State :=
  { online with
    slots := (⟨List.finRange 24, List.length_finRange⟩ : Table 24 SlotId).map fun i =>
      .occupied (fullRecord i)
    free := 6, stamp := 600 }

/-- A full training queue. -/
def crowded : State :=
  { online with queued := (List.range 16).map fun i =>
      { job0 with key := ⟨⟨i / 4 % 8, Nat.mod_lt _ (by decide)⟩, ⟨i % 4, Nat.mod_lt _ (by decide)⟩⟩ } }

/-! ### Well-formed commands -/

def long : List Byte := List.replicate 81 0

theorem test_wf_refuses_long_payloads :
    [Instr.hello 0 0 long, .temp 0 0 long, .lookup 0 0 long, .applied 0 0 long, .trim 0 0 long,
     .train 0 0 long, .retire 0 0 long, .park 0 0 long, .wake 0 0 long, .resync 0 0 long,
     .ready 0 0 long, .result 0 0 long, .unknownKindFrame 0 0x0D 0 long].all
      (fun i => !i.wellFormed) = true := by decide +kernel

theorem test_wf_accepts_80_bytes : (Instr.result 0 0 long.tail).wellFormed = true := by decide +kernel

theorem test_wf_refuses_known_kind :
    (Instr.unknownKindFrame 0 0x01 0 []).wellFormed = false ∧
    (Instr.unknownKindFrame 0 0x0C 0 []).wellFormed = false ∧
    (Instr.unknownKindFrame 0 0x00 0 []).wellFormed = true ∧
    (Instr.unknownKindFrame 0 0x0D 0 []).wellFormed = true := by decide +kernel

theorem test_wf_refuses_length_not_bad :
    (Instr.badFrame 0 (.length 80)).wellFormed = false ∧
    (Instr.badFrame 0 (.length 81)).wellFormed = true := by decide +kernel

theorem test_wf_refuses_right_check :
    (Instr.badFrame 0 (.check 0x03 0 [1] (frameCheck 0x03 0 [1]))).wellFormed = false ∧
    (Instr.badFrame 0 (.check 0x03 0 [1] (frameCheck 0x03 0 [1] ^^^ 1))).wellFormed = true ∧
    (Instr.badFrame 0 .stopBit).wellFormed = true := by decide +kernel

theorem test_no_word_spells_a_command : decodeTableWord 8 1 = none := rfl

/-! ### The queue of commands, resets and registers -/

theorem test_hyps_StepTakesFrontCommand :
    ∃ c rest, ({ State.reset with pending := [.rescan] } : State).pending = c :: rest :=
  ⟨.rescan, [], rfl⟩

theorem test_hyps_StepOnEmptyQueue : State.reset.pending = [] := rfl

/-- A tick starts the head of an idle line's list, and leaves a busy line alone. -/
theorem test_tick_starts_transmission :
    let s := online.emit 0 .nak
    (s.tick.port 0).tx = some (plainEntry .nak) ∧ (s.tick.port 0).pend = [] ∧
      (s.tick.emit 0 .hold).tick.port 0 = (s.tick.emit 0 .hold).port 0 := by decide +kernel

theorem test_hardware_reset : ran .hardwareReset stored = some State.reset := by decide +kernel

/-- Soft reset keeps profiles, budgets and policy, and empties the store. -/
theorem test_soft_reset :
    (ran (.softReset true) stored).map (fun t =>
      (t.profiles == stored.profiles, t.slots == State.reset.slots, t.alertEnable, (t.port 0).state)) =
      some (true, true, true, .offline) := by decide +kernel

theorem test_register_writes_at_the_edges :
    ([0x00, 0x0F, 0x13, 0x1F, 0x24, 0x3F, 0x46, 0x4F, 0x70, 0x7F, 0x82, 0x87, 0xBA, 0xBF, 0xC0, 0xFF,
      0x160, 0xFFFF] : List (BitVec 16)).all
      (fun a => ran (.registerWrite a 0x55) stored == some stored) = true := by decide +kernel

theorem test_hyps_RegisterWrites :
    stored.settle.mb.buffer.wf = true ∧
    (0x51#16).toNat = 0x51 + 4 * (0 : ClassId).val ∧ (0x5D#16).toNat = 0x51 + 4 * (3 : ClassId).val ∧
    (0x60#16).toNat = 0x60 + 2 * (0 : PatternId).val ∧ (0x6E#16).toNat = 0x60 + 2 * (7 : PatternId).val ∧
    0x100 ≤ (0x15F#16).toNat ∧ (0x15F#16).toNat < 0x160 := by decide +kernel

theorem test_buffer_write_at_its_ends :
    (ran (.registerWrite 0x100 7) stored).map (fun t => t.mb.buffer) = some [(0, 7)] ∧
    (ran (.registerWrite 0x15F 7) stored).map (fun t => t.mb.buffer) = some [(95, 7)] ∧
    (ran (.registerWrite 0x15F 0) stored).map (fun t => t.mb.buffer) = some [] := by decide +kernel

/-- A write of a register through REGISTER_WRITE does what its own row does. -/
theorem test_writes_route_alike :
    ([0x10, 0x11, 0x12, 0x20, 0x40, 0x41, 0x42, 0x43, 0x44, 0x45, 0x50, 0x5E, 0x6F, 0xB8, 0xB9] :
      List (BitVec 16)).all
      (fun a => ran (writeCommand a 3) stored == ran (.registerWrite a 3) stored) = true := by
  decide +kernel

theorem test_event_writes :
    let s := (stored.raise .mbDone).raise .evicted
    (ran (.eventsWrite 0x08) s).map State.events = some 0x40 ∧
    (ran (.eventEnWrite 0x08) s).map (fun t => (t.eventEn, t.alertLow)) = some (8, false) ∧
    (ran (.alertEnableWrite true) { s with eventEn := 8 }).map State.alertLow = some true := by
  decide +kernel

theorem test_parameter_ranges :
    (ran (.trwWrite 0) stored == some stored) = true ∧
    (ran (.windowLimitWrite 8) stored).map State.windowLimit = some 8 ∧
    (ran (.windowLimitWrite 9) stored == some stored) = true ∧
    (ran (.spaceAnyWrite 63) stored).map State.spaceAny = some 63 ∧
    (ran (.spaceAnyWrite 64) stored == some stored) = true ∧
    (ran (.spaceGroupWrite 64) stored == some stored) = true ∧
    (ran (.trialTimeoutWrite 31) stored).map State.trialTimeout = some 31 ∧
    (ran (.trialTimeoutWrite 32) stored == some stored) = true ∧
    (ran (.freshTimeWrite 0) stored == some stored) = true := by decide +kernel

/-- A TRW write drops the starts now outside the window. -/
theorem test_trw_prunes_starts :
    (ran (.trwWrite 1) { stored with now := 30000, startList := [5000, 5001] }).map State.startList =
      some [5001] := by decide +kernel

theorem test_spacing_timers_set_afresh :
    (ran (.spaceAnyWrite 2) { stored with now := 30000, lastAny := some 0 }).map State.spaceAnyTimer =
      some (some 50000) ∧
    (ran (.spaceGroupWrite 2) { stored with
      now := 50000, lastGroup := stored.lastGroup.set 0 (some 0) }).map
      (fun t => t.spaceGroupTimer.get 0) = some none := by decide +kernel

theorem test_hyps_BudgetWrites :
    (1 ≤ (1#8).toNat ∧ (63#8).toNat ≤ 63) ∧ ¬(1 ≤ (64#8).toNat ∧ (64#8).toNat ≤ 63) ∧
    (1 ≤ (15#8).toNat ∧ (15#8).toNat ≤ 15) ∧ ¬(1 ≤ (0#8).toNat ∧ (0#8).toNat ≤ 15) ∧
    (0xF0#8 = (stored.settle.budget 0).ageHeld.getD
      (BitVec.ofNat 8 (stored.settle.budget 0).ageLimit)) ∧
    (0x03#8 ++ 0xF0#8 : BitVec 16).toNat ≤ 1023 ∧ 1023 < (0x04#8 ++ 0xF0#8 : BitVec 16).toNat := by
  decide +kernel

/-- A drift budget below a record's drift turns it STALE; a trim limit and an age limit likewise. -/
theorem test_budget_writes_evaluate :
    let s := { stored with ports := stored.ports.set 0 { stored.port 0 with temp := .fresh 102 ⟨0, 1⟩ } }
    let cond (t : State) := (t.slot 0).record?.map Record.cond
    (ran (.driftBudgetWrite 0 1) s).map cond = some (some .stale) ∧
    (ran (.driftBudgetWrite 0 2) s).map cond = some (some .current) ∧
    (ran (.trimLimitWrite 0 1) s).map cond = some (some .current) ∧
    (ran (.ageLimitWrite 0 0) { s with budgets := s.budgets.set 0 ⟨20, 240, 8, some 5⟩ }).map cond =
      some (some .stale) := by decide +kernel

/-- A held low byte is used up by the high byte, in range or not. -/
theorem test_age_limit_held_byte :
    let s := { stored with budgets := stored.budgets.set 0 ⟨20, 240, 8, some 5⟩ }
    (ran (.ageLimitWrite 0 1) s).map (fun t => t.budget 0) = some ⟨20, 261, 8, none⟩ ∧
    (ran (.ageLimitWrite 0 4) s).map (fun t => t.budget 0) = some ⟨20, 240, 8, none⟩ := by
  decide +kernel

theorem test_drift_budget_hands_tests :
    (ran (.driftBudgetWrite 0 30) (running (ctx0 .announce none) stored)).map (fun t =>
      ((t.engine 0).tests, (t.engine 1).tests)) = some ([⟨0, 100⟩], []) := by decide +kernel

theorem test_hyps_SettingWrites :
    stored.settle.patternHeld.get 0 = none ∧
    (State.settle { stored with patternHeld := stored.patternHeld.set 0 (some 1) }).patternHeld.get 0 =
      some 1 := by decide +kernel

theorem test_setting_writes :
    (ran (.errorPolicyWrite 7 1) stored).map (fun t => (t.port 7).policy) = some .strict ∧
    (ran (.autotrainWrite 7 3) stored).map (fun t => ((t.port 7).autotrain, t.rescans)) =
      some (true, 1) ∧
    (ran (.patternWordWrite 7 0x12) { stored with patternHeld := stored.patternHeld.set 7 (some 0x34) }).map
      (fun t => t.patterns.get 7) = some 0x1234 ∧
    (ran (.patternWordWrite 0 0x12) stored).map (fun t => t.patterns.get 0) = some 0x12C3 := by
  decide +kernel

/-! ### The mailbox -/

theorem test_hyps_CommandStarts :
    (commanded 0x01 0 0 0 [] stored).settle.mb.copy ≠ none ∧ stored.settle.mb.copy = none := by
  decide +kernel

/-- What a write of MB_CMD with these arguments leaves: result, BUSY, EVENTS. -/
def startedWith (code port cls urgency : Byte) (s : State) : Option (Status × Bool × Byte) :=
  (ran (.commandStart code)
    { s with mb := { s.mb with argPort := port, argClass := cls, argUrgency := urgency } }).map fun t =>
    (t.mb.result, t.busy, t.events)

/-- MB_CMD while BUSY; an unknown code; and the start checks. -/
theorem test_command_start :
    startedWith 0x01 0 0 0 (commanded 0x01 0 0 0 [] stored) = some (.none, true, 0x80) ∧
    startedWith 0x00 0 0 0 stored = some (.badCommand, false, 0x40) ∧
    startedWith 0x0F 0 0 0 stored = some (.badCommand, false, 0x40) ∧
    startedWith 0x0E 9 9 9 stored = some (.none, true, 0) := by decide +kernel

theorem test_command_start_checks :
    startedWith 0x06 0 0 1 stored = some (.none, true, 0) ∧
    startedWith 0x06 1 0 0 stored = some (.portOffline, false, 0x40) ∧
    startedWith 0x06 0 2 0 stored = some (.classDisabled, false, 0x40) ∧
    startedWith 0x06 0 0 2 stored = some (.badValue, false, 0x40) ∧
    startedWith 0x07 7 3 0 stored = some (.none, true, 0) ∧
    startedWith 0x07 0 4 0 stored = some (.badValue, false, 0x40) ∧
    startedWith 0x08 8 0 0 stored = some (.badValue, false, 0x40) := by decide +kernel

theorem test_command_start_copies_the_buffer :
    let s := { stored with mb := { stored.mb with buffer := [(3, 9)] } }
    (ran (.commandStart 0x02) s).map (fun t => t.mb.copy.map CmdCopy.buffer) = some (some (some [(3, 9)])) ∧
    (ran (.commandStart 0x01) s).map (fun t => t.mb.copy.map CmdCopy.buffer) = some (some none) := by
  decide +kernel

theorem test_hyps_ImmediateCommands :
    stored.mb.copy = none ∧
    ([0x08, 0x0A, 0x0C, 0x0E, 0x01] : List Byte).all (fun code =>
      ((commanded code 7 3 0 [] stored).mb.copy.map fun c => (c.code, c.port.toNat)) ==
        some (code, (7 : PortId).val)) = true := by decide +kernel

theorem test_enable_port :
    (ran .enablePort (commanded 0x08 7 0 0 [] stored)).map (fun t =>
      ((t.port 7).state, (t.port 7).rx, t.mb.result, t.decision)) =
      some (.syncing, .hunting, .done, true) ∧
    (ran .enablePort (commanded 0x08 0 0 0 [] stored)).map (fun t => t.mb.result) =
      some .wrongState := by decide +kernel

theorem test_clear_hold :
    (ran .clearHold (commanded 0x0A 0 0 0 [] (inState .held .unknown))).map (fun t =>
      ((t.port 0).state, t.mb.result)) = some (.syncing, .done) ∧
    (ran .clearHold (commanded 0x0A 0 0 0 [] stored)).map (fun t => t.mb.result) =
      some .wrongState := by decide +kernel

theorem test_get_profile :
    (ran .getProfile (commanded 0x0C 0 1 0 [] stored)).map (fun t =>
      t.mb.buffer.slice 0 11) = some [1, 1, 16, 0, 6, 12, 4, 8, 0, 0, 0] ∧
    (ran .getProfile (commanded 0x0C 0 4 0 [] stored)).map (fun t => t.mb.result) =
      some .badValue := by decide +kernel

theorem test_list_queue :
    (ran .listQueue (commanded 0x0E 0 0 0 [] (running (ctx0 .announce none)
      { stored with queued := [⟨⟨3, 2⟩, .management, .urgent, 1⟩] }))).map (fun t =>
      t.mb.buffer.slice 0 10) = some [2, 0x00, 2, 1, 0, 0x23, 0x0D, 0, 0, 0] := by decide +kernel

/-- An immediate command still standing is carried out before the next register write. -/
theorem test_immediate_command_first :
    (ran (.eventEnWrite 1) (commanded 0x08 7 0 0 [] stored)).map (fun t =>
      ((t.port 7).state, t.eventEn, t.mb.result)) = some (.syncing, 1, .done) := by decide +kernel

theorem test_hyps_DisablePort :
    let s := commanded 0x09 0 0 0 [] (running (ctx0 .announce none)
      { stored with queued := [⟨⟨0, 1⟩, .port, .routine, 0⟩] })
    (s.QueueSound ∧ s.OneSlotPerKey) ∧ s.mb.copy = some ⟨0x09, 0, 0, 0, some []⟩ ∧
    (0#8).toNat = (0 : PortId).val ∧ (s.port 0).state ≠ .offline ∧
    (commanded 0x09 7 0 0 [] stored).QueueSound ∧
    ((commanded 0x09 7 0 0 [] stored).port 7).state = .offline := by
  unfold State.QueueSound State.OneSlotPerKey; decide +kernel

theorem test_disable_port :
    let s := commanded 0x09 0 0 0 [] (running (ctx0 .announce none)
      { stored with queued := [⟨⟨0, 1⟩, .port, .routine, 0⟩] })
    (ran .disablePort s).map (fun t => ((t.port 0).state, t.queued, t.rescans)) =
      some (.offline, [], 2) ∧
    (ran .disablePort s).map State.engines = some stored.engines ∧
    (ran .disablePort s).map (fun t => t.slot 0) =
      some (.occupied { rec0 with cond := .dormant, applied := none }) := by decide +kernel

theorem test_hyps_StoreCommandsWait :
    (commanded 0x03 8 0 0 [] stored).CommandDue ⟨0x03, 8, 0, 0, some []⟩ 0x03 ∧
    (commanded 0x01 7 4 0 [] stored).CommandDue ⟨0x01, 7, 4, 0, some []⟩ 0x01 ∧
    ¬∃ c, stored.CommandDue c 0x01 := by
  refine ⟨by unfold State.CommandDue; decide +kernel, by unfold State.CommandDue; decide +kernel, ?_⟩
  rintro ⟨c, h, -⟩
  exact nomatch (show (none : Option CmdCopy) = some c from h)

theorem test_store_command_bad_value :
    (ran .retireRecord (commanded 0x03 8 0 0 [] stored)).map (fun t => (t.mb.result, t.arb)) =
      some (.badValue, 0) ∧
    (ran .retireRecord (commanded 0x03 0 4 0 [] stored)).map (fun t => t.mb.result) =
      some .badValue := by decide +kernel

theorem test_hyps_ReadListPin :
    ([0x01, 0x04, 0x05, 0x0D] : List Byte).all (fun code =>
      (commanded code 0 0 0 [] stored).grant == some mailboxRequester) = true ∧
    (⟨0x01, 0, 0, 0, some []⟩ : CmdCopy).key = some ⟨0, 0⟩ ∧
    stored.recordOf ⟨0, 0⟩ = some (0, rec0) ∧ stored.recordOf ⟨0, 1⟩ = none := by decide +kernel

theorem test_read_record :
    (ran .readRecord (commanded 0x01 0 0 0 [] stored)).map (fun t =>
      (t.mb.buffer.slice 0 17, t.mb.result, t.stamp)) =
      some ([0x00, 0x00, 3, 0, 3, 0, 100, 0, 5, 0, 2, 20, 12, 0, 0xBE, 0, 0], .done, 5) ∧
    (ran .readRecord (commanded 0x01 0 1 0 [] stored)).map (fun t => t.mb.result) = some .absent := by
  decide +kernel

theorem test_list_records :
    (ran .listRecords (commanded 0x0D 9 9 0 [] stored)).map (fun t => t.mb.buffer.slice 0 8) =
      some [0x42, 0, 2, 0, 0, 0, 0, 0] := by decide +kernel

theorem test_pin :
    (ran .pin (commanded 0x04 0 0 0 [] stored)).map (fun t => (t.slot 0).record?.map Record.pinned) =
      some (some true) := by decide +kernel

theorem test_unpin :
    (ran .unpin (commanded 0x05 0 0 0 [] (withRecord { rec0 with pinned := true } online))).map
      (fun t => (t.slot 0).record?.map Record.pinned) = some (some false) := by decide +kernel

/-- A snapshot with reference, its fields at the ends of their ranges. -/
def snapRef : Snapshot :=
  { stored.snapshot rec0 with
    lanes := List.replicate 16 ⟨63, 64, some ⟨31, 32⟩, .marginal, -15⟩, trained := -128, age := 65535 }

theorem test_hyps_BufferFormatsRoundTrip :
    profRef.valid = true ∧
    ((stored.snapshot rec0).lanes.length ≤ 16 ∧ (stored.snapshot rec0).lanes ≠ [] ∧
      lanesMatch false (stored.snapshot rec0).lanes = true ∧
      (stored.snapshot rec0).lanes.all (preloadLaneOk 8) = true ∧
      validTemp (stored.snapshot rec0).trained = true ∧ (stored.snapshot rec0).age ≤ 65535) ∧
    (snapRef.lanes.length ≤ 16 ∧ snapRef.lanes ≠ [] ∧ lanesMatch true snapRef.lanes = true ∧
      snapRef.lanes.all (preloadLaneOk 15) = true ∧ validTemp snapRef.trained = true ∧
      snapRef.age ≤ 65535) := by decide +kernel

/-- The profile SET_PROFILE carries. -/
def prof3 : Profile := { prof2 with laneCount := 3 }

def offlineRecord : State := withRecord { rec0 with cond := .dormant, applied := none } configured

theorem test_hyps_SetProfile :
    let s := commanded 0x0B 0 0 0 (Memory.ofBytes prof3.bytes) offlineRecord
    s.CommandDue ⟨0x0B, 0, 0, 0, some (Memory.ofBytes prof3.bytes)⟩ 0x0B ∧
    (s.port 0).state = .offline ∧ s.hasJob ⟨0, 0⟩ = false ∧
    readProfile (Memory.ofBytes prof3.bytes) = some prof3 ∧ readProfile [] = none ∧
    (stored.port 0).state ≠ .offline := by unfold State.CommandDue; decide +kernel

theorem test_set_profile :
    (ran .setProfile (commanded 0x0B 0 0 0 (Memory.ofBytes prof3.bytes) offlineRecord)).map (fun t =>
      (t.profile ⟨0, 0⟩, t.slot 0, t.free, t.mb.result, t.mb.retired)) =
      some (prof3, .free, 192, .done, true) ∧
    (ran .setProfile (commanded 0x0B 0 0 0 (Memory.ofBytes prof3.bytes) stored)).map (fun t =>
      t.mb.result) = some .portEnabled := by decide +kernel

/-- A buffer that PRELOAD_RECORD takes for P0/C0. -/
def preloadBuffer : Memory :=
  Memory.ofBytes (stored.snapshot
    { rec0 with age := 12, lanes := [⟨7, 9, none, .good, 8⟩, ⟨8, 0, none, .failed, 0⟩] }).bytes

def preloading (m : Memory) (s : State) : State := commanded 0x02 0 0 0 m s

theorem test_hyps_PreloadChecks :
    (preloading preloadBuffer stored).CommandDue ⟨0x02, 0, 0, 0, some preloadBuffer⟩ 0x02 ∧
    stored.classEnabled ⟨0, 2⟩ = false ∧ stored.classEnabled ⟨0, 0⟩ = true ∧
    bufferLanes [] ≠ (stored.profile ⟨0, 0⟩).laneCount ∧
    bufferLanes preloadBuffer = (stored.profile ⟨0, 0⟩).laneCount ∧
    bufferRef preloadBuffer = (stored.profile ⟨0, 0⟩).refEnable ∧
    bufferLaneList preloadBuffer 7 = none ∧ (bufferLaneList preloadBuffer 8).isSome ∧
    State.hasJob { stored with queued := [job0] } ⟨0, 0⟩ = true ∧
    full.slotOf ⟨0, 0⟩ = none ∧ full.allocate 18 = none := by
  unfold State.CommandDue; decide +kernel

theorem test_preload_checks :
    let res (s : State) := (ran .preloadRecord s).map fun t => t.mb.result
    res (commanded 0x02 0 2 0 preloadBuffer stored) = some .classDisabled ∧
    res (preloading [] stored) = some .laneMismatch ∧
    res (preloading (preloadBuffer.write 7 1) stored) = some .badValue ∧
    res (preloading preloadBuffer { stored with queued := [job0] }) = some .jobPending ∧
    res (preloading preloadBuffer stored) = some .done := by decide +kernel

theorem test_hyps_PreloadWrites :
    (preloading preloadBuffer stored).recordOf ⟨0, 0⟩ = some (0, rec0) ∧
    validTemp (bufferTrained preloadBuffer) = true ∧ stored.hasJob ⟨0, 0⟩ = false ∧
    (preloading preloadBuffer online).slotOf ⟨0, 0⟩ = none ∧
    (online.allocate 2).isSome = true := by decide +kernel

/-- Over an applied record: generation 4 and NOTICE REPLACED. -/
theorem test_preload_over :
    (ran .preloadRecord (preloading preloadBuffer stored)).map (fun t =>
      ((t.slot 0).record?.map fun r => (r.gen, r.applied, r.age, r.stamp))) =
      some (some (4, some 3, 12, 5)) ∧
    (ran .preloadRecord (preloading preloadBuffer stored)).map (fun t => (t.port 0).pend) =
      some [plainEntry (.notice 0 .replaced 4)] := by decide +kernel

/-- Into a new slot: generation 1, CURRENT. -/
theorem test_preload_new :
    (ran .preloadRecord (preloading preloadBuffer online)).map (fun t =>
      ((t.slot 0).record?.map fun r => (r.gen, r.applied, r.cond, r.stamp))) =
      some (some (1, none, .current, 1)) ∧
    (ran .preloadRecord (preloading preloadBuffer online)).map State.free = some 190 := by
  decide +kernel

theorem test_hyps_Allocation :
    (full.StampsDistinct ∧ stored.StampsDistinct) ∧ stored.lowestFree = some 1 ∧ 190 ≤ stored.free ∧
    full.lowestFree = none ∧
    full.candidates.map (fun x => (x.1, x.2.laneCount)) = [(14, 1), (17, 4), (9, 2), (3, 4)] := by
  unfold State.StampsDistinct; decide +kernel

/-- The example of 1.5, with its shortest and longest eviction sets. -/
theorem test_allocation :
    (full.allocate 8).map (fun x => (x.1, x.2.free, x.2.events)) = some (14, 11, 0x08) ∧
    (full.allocate 8).map (fun x => x.2.slots) = some ((full.slots.set 14 .free).set 17 .free) ∧
    (full.allocate 7).map Prod.fst = some 14 ∧ (full.allocate 17).map Prod.fst = some 3 ∧
    full.allocate 18 = none ∧ (stored.allocate 190).map Prod.fst = some 1 := by decide +kernel

theorem test_hyps_RetireRecord :
    let s := commanded 0x03 0 0 0 [] (running (ctx0 .announce none) stored)
    (s.QueueSound ∧ s.OneSlotPerKey) ∧ s.CommandDue ⟨0x03, 0, 0, 0, some []⟩ 0x03 ∧
    s.recordOf ⟨0, 0⟩ = some (0, rec0) ∧ s.recordOf ⟨0, 1⟩ = none := by
  unfold State.QueueSound State.OneSlotPerKey State.CommandDue; decide +kernel

theorem test_retire_record :
    (ran .retireRecord (commanded 0x03 0 0 0 [] (running (ctx0 .announce none) stored))).map (fun t =>
      (t.slot 0, t.free, (t.port 0).pend, (t.engine 0).ctx, t.mb.result)) =
      some (.free, 192, [plainEntry (.notice 0 .retired 3),
        plainEntry (.endTraining 0 .cancelled none)], none, .done) := by decide +kernel

/-! ### Training: enqueue and cancel -/

theorem test_hyps_Enqueue :
    (running (ctx0 .announce none) stored).jobRunning ⟨0, 0⟩ = true ∧
    crowded.jobRunning ⟨5, 0⟩ = false ∧ crowded.jobQueued ⟨5, 0⟩ = false ∧ 16 ≤ crowded.entriesHeld ∧
    stored.entriesHeld < 16 ∧ crowded.QueueSound ∧ job0.key = ⟨0, 0⟩ ∧
    crowded.queued = [] ++ job0 :: crowded.queued.tail := by
  unfold State.QueueSound; decide +kernel

/-- An enqueue raises a ROUTINE job, merges its origin, and is refused where 16 entries are held. -/
theorem test_enqueue :
    (crowded.enqueue ⟨0, 0⟩ .port .urgent).2 = .raised ∧
    (crowded.enqueue ⟨0, 0⟩ .port .routine).1.queued.head? = some { job0 with origin := .port } ∧
    (crowded.enqueue ⟨5, 0⟩ .port .urgent).2 = .trainingFull ∧
    (stored.enqueue ⟨0, 0⟩ .port .urgent).2 = .queued := by decide +kernel

theorem test_hyps_CancelTraining :
    let s := commanded 0x07 0 0 0 [] (running (ctx0 .announce none) stored)
    s.mb.copy = some ⟨0x07, 0, 0, 0, some []⟩ ∧ (s.QueueSound ∧ s.OneSlotPerKey) ∧
    s.hasJob ⟨0, 0⟩ = true ∧ s.hasJob ⟨0, 1⟩ = false ∧
    (⟨0x07, 8, 0, 0, none⟩ : CmdCopy).key = none := by
  unfold State.QueueSound State.OneSlotPerKey; decide +kernel

theorem test_cancel_training :
    (ran .cancelTraining (commanded 0x07 0 0 0 [] (running (ctx0 .announce none) stored))).map
      (fun t => ((t.engine 0).ctx, (t.port 0).lastOutcome, t.rescans, t.mb.result)) =
      some (none, some (.cancelled, 0), 1, .done) ∧
    (ran .cancelTraining (commanded 0x07 0 1 0 [] stored)).map (fun t => t.mb.result) =
      some .noJob := by decide +kernel

/-- A record held off. -/
def heldOff : State := withRecord { rec0 with cond := .stale, holdOff := true } online

theorem test_hyps_TrainingAsked :
    (commanded 0x06 0 0 1 [] heldOff).CommandDue ⟨0x06, 0, 0, 1, some []⟩ 0x06 ∧
    (commanded 0x06 0 0 2 [] heldOff).CommandDue ⟨0x06, 0, 0, 2, some []⟩ 0x06 ∧
    (asked (.train 0 .urgent) heldOff).grant = some (portRequester 0) := by
  unfold State.CommandDue; decide +kernel

theorem test_queue_training :
    (ran .queueTraining (commanded 0x06 0 0 1 [] heldOff)).map (fun t =>
      (t.queued, (t.slot 0).record?.map Record.holdOff, t.mb.result)) =
      some ([⟨⟨0, 0⟩, .management, .urgent, 0⟩], some false, .queued) := by decide +kernel

theorem test_train_service :
    (ran (.trainService 0) (asked (.train 0 .urgent) heldOff)).map (fun t =>
      (t.queued, (t.slot 0).record?.map Record.holdOff, (t.port 0).pend)) =
      some ([⟨⟨0, 0⟩, .port, .urgent, 0⟩], some false,
        [plainEntry (.answer 7 .queued none (some ⟨true, false⟩))]) := by decide +kernel

/-! ### Frames -/

/-- A wrong kind, length or field, each at the edge of what is right. -/
theorem test_malformed_frames :
    ([(0x00, []), (0x0D, []), (0x01, []), (0x01, [1, 1]), (0x02, [0]), (0x03, [4]), (0x03, [0, 0]),
      (0x04, [0, 0]), (0x05, [0, 0]), (0x05, [0, 3, 0, 0]), (0x05, [0, 3, 0, 0, 4]),
      (0x05, [0, 3, 0, 0xFC, 0]), (0x05, 2 :: 3 :: 0 :: List.replicate 17 0), (0x06, [0, 2]), (0x07, [4]),
      (0x08, [0]), (0x09, [0]), (0x0A, []), (0x0C, [0])] : List (Byte × List Byte)).all
      (fun f => ran (frameCommand 0 f.1 7 f.2) online ==
        some ((online.framed 0).answerAtOnce 0 7 .malformed)) = true := by decide +kernel

theorem test_hyps_FrameChecks :
    (configured.port 0).state = .offline ∧ ((inState .held .unknown).port 0).state = .held ∧
    ¬((0x0C : Byte) = 0x0C ∧ ([0] : List Byte) = []) ∧
    (running (ctx0 .delaySweep none) online).runningPort 0 = some (0, ctx0 .delaySweep none) ∧
    ([9, 0] : List Byte).length ≠ 1 + (ctx0 .delaySweep none).profile.laneCount ∧
    online.runningPort 0 = none ∧ (online.profile ⟨0, 2⟩).laneCount = 0 ∧
    (online.profile ⟨0, 0⟩).laneCount = 2 := by decide +kernel

theorem test_unknown_kind_frame :
    (ran (.unknownKindFrame 0 0x0D 7 [1]) online).map (fun t => (t.port 0).pend) =
      some [plainEntry (.answer 7 .malformed none none)] ∧
    ran (.unknownKindFrame 0 0x0D 7 []) configured = some configured := by decide +kernel

theorem test_hyps_Hello :
    (inState .syncing .unknown).port 0 = { Port.reset with state := .syncing, rx := .hunting } ∧
    (online.port 0).state = .online ∧ ((inState .parked .unknown).port 0).state = .parked := by
  decide +kernel

/-- HELLO in SYNCING opens the port; in ONLINE it restarts it. -/
theorem test_hello :
    (ran (.hello 0 7 [1]) (inState .syncing .unknown)).map (fun t => ((t.port 0).state, (t.port 0).pend)) =
      some (.online, [plainEntry (.welcome 7 [(2, false), (1, true), (0, false), (0, false)])]) ∧
    (ran (.hello 0 7 [2]) stored).map (fun t => ((t.port 0).state, (t.port 0).pend)) =
      some (.syncing, [plainEntry (.answer 7 .badVersion none none)]) := by decide +kernel

theorem test_hello_restart_loses_applied :
    (ran (.hello 0 7 [1]) (asked .park stored)).map (fun t => (t.slot 0, (t.port 0).reqs)) =
      some (.occupied { rec0 with cond := .dormant, applied := none }, []) := by decide +kernel

theorem test_hyps_Temp :
    (255 : Int) = (0x00#8 ++ 0xFF#8 : BitVec 16).toInt ∧ (-128 : Int) = (0xFF#8 ++ 0x80#8 : BitVec 16).toInt ∧
    (256 : Int) = (0x01#8 ++ 0x00#8 : BitVec 16).toInt ∧ (-129 : Int) = (0xFF#8 ++ 0x7F#8 : BitVec 16).toInt ∧
    (online.port 0).state = .online := by decide +kernel

/-- A TEMP one half degree beyond the drift budget turns the record STALE, with its NOTICE. -/
theorem test_temp :
    (ran (.temp 0 7 [121, 0]) stored).map (fun t => ((t.slot 0).record?.map Record.cond, (t.port 0).pend)) =
      some (some .stale, [plainEntry (.notice 0 .stale 3)]) ∧
    (ran (.temp 0 7 [120, 0]) stored).map (fun t => ((t.slot 0).record?.map Record.cond, (t.port 0).temp)) =
      some (some .current, .fresh 120 ⟨0, 2500000⟩) := by decide +kernel

theorem test_temp_autotrain :
    (ran (.temp 0 7 [121, 0])
      { stored with ports := stored.ports.set 0 { stored.port 0 with autotrain := true } }).map
      (fun t => (t.autoReqs, t.events)) = some ([⟨0, 0⟩], 0) ∧
    (ran (.temp 0 7 [121, 0]) stored).map (fun t => (t.autoReqs, t.events)) = some ([], 0x20) := by
  decide +kernel

theorem test_hyps_RequestFrames :
    (online.profile ⟨0, 0⟩).laneCount = ([0xFD, 3] : List Byte).length ∧
    (∀ d ∈ ([0xFD, 3] : List Byte), -3 ≤ d.toInt ∧ d.toInt ≤ 3) ∧
    (online.profile ⟨0, 2⟩).laneCount = 0 ∧ (online.port 0).reqs.length < 4 := by decide +kernel

def fourRequests : State :=
  { online with ports := online.ports.set 0 { online.port 0 with reqs := List.replicate 4 ⟨1, .park⟩ } }

/-- The six requests as they stand in the queue. -/
theorem test_requests :
    ([(Instr.lookup 0 7 [3], ReqBody.lookup 3), (.applied 0 7 [0, 0x34, 0x12], .applied 0 0x1234),
      (.trim 0 7 [0, 3, 0, 0xFD, 3], .trim 0 3 [-3, 3]), (.trim 0 7 [2, 3, 0, 0x7F], .trim 2 3 [127]),
      (.train 0 7 [1, 1], .train 1 .urgent), (.retire 0 7 [0], .retire 0), (.park 0 7 [], .park)] :
      List (Instr × ReqBody)).all
      (fun x => (ran x.1 online).map (fun t => (t.port 0).reqs) == some [⟨7, x.2⟩]) = true := by
  decide +kernel

theorem test_fifth_request :
    (ran (.lookup 0 7 [0]) fourRequests).map (fun t => ((t.port 0).reqs.length, (t.port 0).pend)) =
      some (4, [plainEntry (.answer 7 .requestsFull none none)]) ∧
    (ran (.park 0 7 []) (inState .syncing .unknown)).map (fun t => (t.port 0).pend) =
      some [plainEntry (.answer 7 .notOnline none none)] := by decide +kernel

theorem test_wake :
    (ran (.wake 0 7 []) (inState .parked .unknown)).map (fun t =>
      ((t.port 0).state, (t.port 0).pend, t.rescans)) =
      some (.online, [plainEntry (.answer 7 .done none none)], 1) := by decide +kernel

theorem test_resync :
    (ran (.resync 0 7 []) (inState .held .unknown)).map (fun t => (t.port 0).state) = some .syncing ∧
    ran (.resync 0 7 [0]) (inState .held .unknown) = some (inState .held .unknown) ∧
    ran (.resync 0 7 []) stored = some stored := by decide +kernel

theorem test_hyps_WakeAndResync :
    ((inState .parked .unknown).port 0).state = .parked ∧ (online.port 0).state = .online ∧
    ((inState .syncing .unknown).port 0).state = .syncing ∧
    ((inState .held .unknown).port 0).state = .held := by decide +kernel

/-- Port 0 with a count of bad frames. -/
def counted (n : Nat) (policy : Policy) : State :=
  { stored with ports := stored.ports.set 0 { stored.port 0 with bad := n, policy := policy } }

theorem test_hyps_BadFrames :
    isBad (.length 81) = true ∧ ((counted 2 .tolerant).port 0).bad < 3 ∧
    3 ≤ ((counted 3 .tolerant).port 0).bad ∧ ((counted 0 .strict).port 0).policy = .strict := by
  decide +kernel

/-- The third bad frame is counted and the fourth brings HELD; STRICT holds at the first. -/
theorem test_bad_frames :
    let sum (t : State) := ((t.port 0).state, (t.port 0).bad, (t.port 0).pend)
    (ran (.badFrame 0 .stopBit) (counted 2 .tolerant)).map sum = some (.online, 3, [plainEntry .nak]) ∧
    (ran (.badFrame 0 .stopBit) (counted 3 .tolerant)).map sum = some (.held, 0, [plainEntry .hold]) ∧
    (ran (.badFrame 0 .stopBit) (counted 0 .strict)).map sum = some (.held, 0, [plainEntry .hold]) := by
  decide +kernel

theorem test_start_byte_received :
    (ran (.startByteReceived 0) online).map (fun t => (t.port 0).rx) = some (.inFrame []) ∧
    ran (.startByteReceived 1) online = some online := by decide +kernel

theorem test_crc : crc8 [0x01, 0x00] = 0x15 ∧ crc8 [0x31, 0x32, 0x33, 0x34, 0x35, 0x36, 0x37, 0x38, 0x39] = 0xF4 := by
  decide +kernel

theorem test_hyps_FrameCheck :
    (OutFrame.answer 7 .done (some 4) none).payload.length ≤ 80 ∧
    (OutFrame.answer 7 .done (some 4) none).wire.take 4 = [0xC5, 0x82, 7, 4] := by decide +kernel

/-! ### The sideband lines and the SPI target -/

/-- Port 0 ONLINE with a frame in reception. -/
def receiving (taken : List Byte) : State :=
  online.modPort 0 fun x => { x with rx := .inFrame taken }

/-- Port 0 ONLINE with a NAK on its line, `sent` of its bits gone. -/
def sending (sent : Nat) : State :=
  online.modPort 0 fun x => { x with tx := some (plainEntry .nak), sent := sent }

/-- `s` after these bytes on SBIn of port 0, bit by bit. -/
def hear (bytes : List Byte) (s : State) : Option State :=
  reached (s.takeLevels 0 (bytes.flatMap charLevels))

theorem test_hyps_SidebandLines :
    ((online.port 0).rx = .hunting ∧ (online.port 0).char = none ∧ (online.port 1).rx = .stopped) ∧
    long.tail.length ≤ 80 ∧ ¬((0xC5 : Byte) = 0xC5 ∧ false = true) ∧ 80 < (81#8).toNat ∧
    ((receiving [3, 7]).port 0).rx = .inFrame [3, 7] ∧
    ((receiving [3, 7, 1, 2]).port 0).rx = .inFrame ([3, 7, BitVec.ofNat 8 1] ++ [2]) ∧
    (frameCheck 0x03 7 [2] ^^^ 1) ≠ frameCheck 0x03 7 [2] ∧
    ((sending 48).port 0).finishing = none ∧ ((sending 48).port 0).tx = some (plainEntry .nak) ∧
    10 * OutFrame.nak.wire.length = 50 ∧
    ({ Port.reset with finishing := some (plainEntry .nak) } : Port).finishing = some (plainEntry .nak) := by
  decide +kernel

/-- A LOOKUP on the line, after a byte that is no start byte; a length above 80. -/
theorem test_frame_heard :
    hear [0x00, 0xC5, 0x03, 0x07, 0x01, 0x02, frameCheck 3 7 [2]] online = ran (.lookup 0 7 [2]) online ∧
    hear [0xC5, 0x03, 0x07, 0x51] online = ran (.badFrame 0 (.length 0x51)) online ∧
    reached ((receiving [3]).takeLevels 0 ((charLevels 7).take 9 ++ [false])) =
      ran (.badFrame 0 .stopBit) online := by decide +kernel

/-- A frame begun before DISABLE_PORT is dropped: its rest makes no command after ENABLE_PORT. -/
theorem test_disable_drops_reception :
    let s := (((hear [0xC5, 0x03, 0x07] online).bind fun t =>
      ran .disablePort (commanded 0x09 0 0 0 [] t)).bind fun t =>
      ran .enablePort (commanded 0x08 0 0 0 [] t)).getD .reset
    ((s.port 0).state, (s.port 0).rx) = (.syncing, .hunting) ∧
    hear [0x01, 0x02, frameCheck 3 7 [2]] s = some s := by decide +kernel

/-- A HELLO begun in HELD and completed after CLEAR_HOLD opens the port. -/
theorem test_clear_hold_keeps_reception :
    ((((hear [0xC5, 0x01, 0x07] (inState .held .unknown)).bind fun t =>
      ran .clearHold (commanded 0x0A 0 0 0 [] t)).bind fun t =>
      hear [0x01, 0x01, frameCheck 1 7 [1]] t).map fun t => (t.port 0).state) = some .online := by
  decide +kernel

/-- The levels of SBOn of port 0 over `n` bit times, and the state after them. -/
def spoken : Nat → State → List Bool × State
  | 0, s => ([], s)
  | n + 1, s =>
    let rest := spoken n ((reached (s.driveBit 0)).getD .reset)
    ((s.port 0).level :: rest.1, rest.2)

/-- A NAK leaves bit by bit, and the line rests high. -/
theorem test_frame_spoken :
    let a := spoken 52 (online.emit 0 .nak)
    a.1 = [true] ++ OutFrame.nak.wire.flatMap charLevels ++ [true] ∧
    OutFrame.nak.wire.take 2 = [0xC5, 0x88] ∧
    (charLevels 0xC5) = [false, true, false, true, false, false, false, true, true, true] ∧
    a.2 = online := by decide +kernel

/-- `s` after a transaction of these bytes from the host, CS_N still low. -/
def hosted (bytes : List Byte) (s : State) : Option State :=
  reached (s.csFall.sampleBits (bytes.flatMap msbFirst))

/-- The byte MISO shows over the next eight falling edges of SCK, and the state after them. -/
def misoByte (s : State) : List Miso × State :=
  ((List.range 8).map fun k => (Nat.iterate State.sckFall (k + 1) s).miso, Nat.iterate State.sckFall 8 s)

theorem test_hyps_RegisterAccesses :
    (commanded 0x08 7 0 0 [] stored).mb.copy = some ⟨0x08, 7, 0, 0, some []⟩ ∧ stored.spi = none ∧
    stored.csFall.spi = some ⟨.instruction, []⟩ ∧ SpiPhase.instruction.listens = true ∧
    ((hosted [0x02, 0x00, 0x40] stored).bind State.spi) = some ⟨.write 0x40, []⟩ ∧
    ((hosted [0x03, 0x00, 0x84] stored).bind State.spi) = some ⟨.read 0x84 none [], []⟩ ∧
    ((hosted [0x00] stored).bind State.spi) = some ⟨.ignored, []⟩ := by decide +kernel

/-- A WRITE of two registers; a third byte cut short by CS_N is discarded. -/
theorem test_spi_write :
    (hosted [0x02, 0x00, 0x40, 33, 5] stored).map State.csRise =
      (ran (.trwWrite 33) stored).bind (ran (.windowLimitWrite 5)) ∧
    (reached (stored.csFall.sampleBits (([0x02, 0x00, 0x40] : List Byte).flatMap msbFirst ++
      (msbFirst 33).take 7))).map State.csRise = some stored := by decide +kernel

/-- A READ of port 0's temperature: the second byte is of the capture, whatever TEMP came between. -/
theorem test_spi_read :
    let s := (hosted [0x03, 0x00, 0x84] stored).getD .reset
    let a := misoByte s
    a.1 = (msbFirst 100).map .level ∧
    (misoByte (a.2.modPort 0 fun x => { x with temp := .fresh (-1) ⟨0, 2500000⟩ })).1 =
      (msbFirst 0).map .level ∧
    stored.miso = .highImpedance ∧ s.miso = .notStated := by decide +kernel

/-- A read finds ENABLE_PORT carried out, and READ_RECORD still waiting. -/
theorem test_read_settles :
    (commanded 0x08 7 0 0 [] stored).readByte 0x24 = 0 ∧
    (commanded 0x01 0 0 0 [] stored).readByte 0x24 = 1 := by decide +kernel

/-- Hardware reset abandons a transaction; a soft reset leaves the rest of it ignored. -/
theorem test_resets_in_a_transaction :
    ((hosted [0x02, 0x00, 0x40] stored).bind fun t =>
      (ran .hardwareReset t).bind fun t => reached (t.sampleBits (msbFirst 33))) = some .reset ∧
    ((hosted [0x02, 0x00, 0x10, 0x03, 0xFF] stored).map fun t => (t.spi, t.miso, t.alertEnable)) =
      some (some ⟨.ignored, []⟩, .level false, true) := by decide +kernel

/-! ### Sweeps -/

theorem test_hyps_Responses :
    (online.port 0).state = .online ∧
    (running (awaitingResponse .announce 0) online).runningPort 0 =
      some (0, awaitingResponse .announce 0) ∧
    (awaitingResponse .announce 0).outstanding = some 9 ∧
    ([0, 255] : List Byte).length = (awaitingResponse .delaySweep 0).profile.laneCount ∧
    (ctx0 .delaySweep none).sweeping = true ∧ (ctx0 .delaySweep none).leaving = none ∧
    (awaitingResponse .announce 0).sweeping = false := by decide +kernel

/-- READY begins the delay sweep with TRIAL 0; an id that is not outstanding is discarded. -/
theorem test_ready :
    (ran (.ready 0 7 [9]) (running (awaitingResponse .announce 0) online)).map (fun t =>
      ((t.engine 0).ctx.map fun c => (c.phase, c.index, c.outstanding), (t.port 0).pend.length)) =
      some (some (.delaySweep, 0, some 0), 1) ∧
    ran (.ready 0 7 [8]) (running (awaitingResponse .announce 0) online) =
      some (running (awaitingResponse .announce 0) online) := by decide +kernel

/-- A RESULT at the pass threshold and one above it. -/
theorem test_result :
    (ran (.result 0 7 [9, 0, 1]) (running (awaitingResponse .delaySweep 5) online)).map (fun t =>
      (t.engine 0).ctx.map fun c => (c.index, c.delayMap.map fun m => m[5]?)) =
      some (some (6, [some (some true), some (some false)])) ∧
    (ran (.result 0 7 [9, 0]) (running (awaitingResponse .delaySweep 5) online)).map
      (fun t => (t.port 0).pend) = some [plainEntry (.answer 7 .malformed none none)] := by decide +kernel

/-- A lane's map with the settings from `a` on, `n` of them, passed and the others failed. -/
def mapOf (size a n : Nat) : List (Option Bool) :=
  (List.range size).map fun k => some (decide (a ≤ k ∧ k < a + n))

/-- The context before the last delay result, with the first lane's eye given; reference where `p`
enables it. -/
def lastDelay (p : Profile) (a n : Nat) : Ctx :=
  { awaitingResponse .delaySweep 63 with
    profile := p, delayMap := List.replicate p.laneCount (mapOf 64 a n) }

def lastRef (a n : Nat) : Ctx :=
  { awaitingResponse .refSweep 31 with
    profile := profRef, delayEye := [⟨10, 12, .good⟩], refMap := [mapOf 32 a n] }

theorem test_hyps_Scoring :
    (awaitingResponse .delaySweep 62).index < 63 ∧ (awaitingResponse .refSweep 30).index < 31 ∧
    (lastDelay profRef 10 6).phase = .delaySweep ∧ (lastDelay profRef 10 6).index = 63 ∧
    (lastRef 0 4).phase = .refSweep ∧ (lastRef 0 4).index = 31 ∧
    ([1] : List Nat).length = (lastRef 0 4).profile.laneCount ∧
    (∃ x ∈ ((lastDelay profRef 10 6).takeResult [1]).delayEye, x.cond ≠ .failed) ∧
    ((lastDelay profRef 10 5).takeResult [1]).results.all (· == .failed) = true ∧
    ((lastRef 0 4).takeResult [1]).results.all (· == .failed) = false := by decide +kernel

/-- The last trial of each sweep scored: what O35's `d` is, and the entry written. -/
theorem test_hyps_Scoring_last :
    (let d := (lastDelay profRef 10 6).takeResult [1]
     d.delayMap = (lastDelay profRef 10 6).delayMap.mapIdx (fun i m =>
       m.set 63 (some (([1] : List Nat).getD i 256 ≤ profRef.passThreshold))) ∧
     d.delayEye = d.delayMap.map (findEye 6 12) ∧ (d.outstanding, d.timer) = (none, none)) ∧
    (let d := (lastRef 0 4).takeResult [0]
     d.refMap = [(mapOf 32 0 4).set 31 (some true)] ∧ d.refEye = d.refMap.map (findEye 4 8)) := by
  decide +kernel

/-- After the last delay trial: a reference sweep, a commit, or NO_EYE. -/
theorem test_after_delay_sweep :
    let sum (c : Ctx) := (c.phase, c.request)
    sum ((lastDelay profRef 10 6).takeResult [1]) = (.refSweep, none) ∧
    sum ((lastDelay profRef 10 5).takeResult [1]) = (.evaluate, some .noEye) ∧
    sum ((lastDelay prof2 10 6).takeResult [1, 1]) = (.commit, some .commit) ∧
    sum ((lastRef 0 4).takeResult [1]) = (.commit, some .commit) ∧
    sum ((lastRef 0 3).takeResult [1]) = (.evaluate, some .noEye) := by decide +kernel

/-- The four lanes of the example of chapter 6. -/
theorem test_eyes :
    findEye 6 12 (mapOf 64 21 18) = ⟨21, 18, .good⟩ ∧ (⟨21, 18, .good⟩ : Eye).centre = 29 ∧
    findEye 6 12 (List.zipWith (fun a b => some (a == some true || b == some true)) (mapOf 64 10 8)
      (mapOf 64 44 9)) = ⟨44, 9, .marginal⟩ ∧
    findEye 6 12 (mapOf 64 30 4) = ⟨30, 4, .failed⟩ ∧
    findEye 6 12 (List.zipWith (fun a b => some (a == some true || b == some true)) (mapOf 64 0 6)
      (mapOf 64 58 6)) = ⟨0, 6, .marginal⟩ := by decide +kernel

theorem test_hyps_EyeIsLongestRun :
    longestRun [false, true, true, false] = (1, 2) ∧ PassRun [false, true, true, false] 1 2 ∧
    1 ≤ (⟨0, 1, .good⟩ : Eye).width := by
  refine ⟨by decide +kernel, ⟨by decide, ?_⟩, by decide⟩
  intro j hj
  interval_cases j <;> rfl

theorem test_hyps_LaneConditions :
    (6 ≤ 12) ∧ widthCond 5 6 12 = .failed ∧ widthCond 6 6 12 = .marginal ∧ widthCond 11 6 12 = .marginal ∧
    widthCond 12 6 12 = .good ∧ widthCond 6 6 6 = .good ∧
    (((lastDelay prof2 10 6).takeResult [1, 1]).commitLanes none)[0]? =
      some ⟨12, 6, none, .marginal, 0⟩ ∧
    (((lastDelay prof2 10 5).takeResult [1, 1]).commitLanes (some lanes2))[1]? =
      some ⟨62, 0, none, .failed, 0⟩ ∧
    (((lastDelay profRef 10 5).takeResult [1]).commitLanes none)[0]? =
      some ⟨0, 0, some ⟨16, 0⟩, .failed, 0⟩ := by decide +kernel

/-- Stimulus words by arrangement, at the wrap of the table. -/
theorem test_stimulus :
    let p := { prof2 with baseWord := 7 }
    stimulus resetPatterns p 1 3 = 0x0000 ∧
    stimulus resetPatterns { p with advance := true } 1 3 = 0xA5C3 ∧
    stimulus resetPatterns { p with arrangement := .rotate } 1 1 = 0xA5C3 ∧
    stimulus resetPatterns { p with arrangement := .alternate } 1 1 = 0xFFFF := by decide +kernel

theorem test_hyps_Trials :
    prof2.baseWord ≤ 7 ∧ prof2.arrangement = .common ∧ (ctx0 .delaySweep none).phase = .delaySweep ∧
    (ctx0 .announce none).directive 9 = .beginTraining 0 9 ∧
    (lastRef 0 4).directive 9 = .trial 9 .reference [⟨15, some 31, 0xA5C3⟩] := by decide +kernel

/-! ### Services -/

theorem test_hyps_ServicesWait :
    (asked (.lookup 2) stored).RequestDue 0 7 (.lookup 2) ∧
    (asked (.lookup 2) stored).classEnabled ⟨0, 2⟩ = false ∧
    (asked (.applied 2 1) stored).RequestDue 0 7 (.applied 2 1) ∧
    (asked (.trim 2 1 []) stored).RequestDue 0 7 (.trim 2 1 []) ∧
    (asked (.retire 2) stored).RequestDue 0 7 (.retire 2) ∧
    (asked (.train 2 .routine) stored).RequestDue 0 7 (.train 2 .routine) ∧
    ¬∃ tag c, stored.RequestDue 0 tag (.lookup c) := by
  refine ⟨⟨⟨[], by decide +kernel⟩, by decide +kernel⟩, by decide +kernel,
    ⟨⟨[], by decide +kernel⟩, by decide +kernel⟩, ⟨⟨[], by decide +kernel⟩, by decide +kernel⟩,
    ⟨⟨[], by decide +kernel⟩, by decide +kernel⟩, ⟨⟨[], by decide +kernel⟩, by decide +kernel⟩, ?_⟩
  rintro ⟨tag, c, ⟨rest, h⟩, -⟩
  exact nomatch (show ([] : List Request) = _ from h)

theorem test_class_disabled :
    (ran (.retireService 0) (asked (.retire 2) stored)).map (fun t =>
      ((t.port 0).pend, (t.port 0).reqs, t.arb)) =
      some ([plainEntry (.answer 7 .classDisabled none none)], [], 1) := by decide +kernel

theorem test_hyps_LookupAndApplied :
    (asked (.applied 0 3) stored).RequestDue 0 7 (.applied 0 3) ∧
    (asked (.lookup 0) stored).RequestDue 0 7 (.lookup 0) ∧
    stored.classEnabled ⟨0, 0⟩ = true ∧ stored.recordOf ⟨0, 0⟩ = some (0, rec0) ∧
    stored.stamp ≠ 16777215 ∧ ({ stored with stamp := 16777215 } : State).StampsDistinct := by
  refine ⟨⟨⟨[], by decide +kernel⟩, by decide +kernel⟩, ⟨⟨[], by decide +kernel⟩, by decide +kernel⟩,
    by decide +kernel, by decide +kernel, by decide +kernel, ?_⟩
  unfold State.StampsDistinct
  decide +kernel

theorem test_lookup_service :
    (ran (.lookupService 0) (asked (.lookup 0) stored)).map (fun t => ((t.port 0).pend, t.stamp)) =
      some ([plainEntry (.record 7 (stored.snapshot rec0))], 6) ∧
    (ran (.lookupService 0) (asked (.lookup 1) stored)).map (fun t => ((t.port 0).pend, t.stamp)) =
      some ([plainEntry (.answer 7 .absent none (some ⟨false, false⟩))], 5) := by decide +kernel

theorem test_applied_service :
    (ran (.appliedService 0) (asked (.applied 0 3) (withRecord { rec0 with applied := none } online))).map
      (fun t => (t.slot 0).record?.map Record.applied) = some (some (some 3)) ∧
    (ran (.appliedService 0) (asked (.applied 0 2) stored)).map (fun t => (t.port 0).pend) =
      some [plainEntry (.answer 7 .staleGeneration (some 3) none)] := by decide +kernel

/-- At the last stamp the records are renumbered before the new one is assigned. -/
theorem test_renumber :
    (State.touch { full with stamp := 16777215 } 14).stamp = 25 ∧
    ((State.touch { full with stamp := 16777215 } 14).slot 17).record?.map Record.stamp = some 1 := by
  decide +kernel

/-- What a TRIM of generation `g` with these deltas leaves, for record `r`: its answer's status, and
the record's generation and lane taps and offsets. -/
def trimOf (r : Record) (g : Nat) (ds : List Int) : Option (Option OutFrame × Option (Nat × List (Nat × Int))) :=
  (ran (.trimService 0) (asked (.trim 0 g ds) (withRecord r online))).map fun t =>
    ((t.port 0).pend.head?.map OutEntry.frame,
      (t.slot 0).record?.map fun r => (r.gen, r.lanes.map fun l => (l.tap, l.trim)))

def answer3 (status : Status) : Option OutFrame := some (.answer 7 status (some 3) none)

/-- The checks of a TRIM from the second on, and the trim; the limit of C0 is 8. -/
theorem test_trim_checks :
    (trimOf rec0 2 [0, 0]).map Prod.fst = some (answer3 .staleGeneration) ∧
    (trimOf { rec0 with applied := none } 3 [0, 0]).map Prod.fst = some (answer3 .notApplied) ∧
    (trimOf { rec0 with cond := .dormant } 3 [0, 0]).map Prod.fst = some (answer3 .notCurrent) ∧
    (trimOf rec0 3 [0, 1]).map Prod.fst = some (answer3 .outOfRange) ∧
    (trimOf { rec0 with lanes := [⟨62, 9, none, .good, 0⟩] } 3 [2]).map Prod.fst =
      some (answer3 .outOfRange) ∧
    (trimOf { rec0 with lanes := [⟨20, 9, none, .good, 6⟩] } 3 [3]).map Prod.fst =
      some (answer3 .trimLimit) := by decide +kernel

/-- TRIM 1 of the example of 4.4. -/
theorem test_trim_accepted :
    trimOf { rec0 with
      lanes := [⟨30, 9, none, .good, 2⟩, ⟨28, 9, none, .good, -1⟩, ⟨33, 9, none, .marginal, 6⟩,
        ⟨0, 0, none, .failed, 0⟩] } 3 [1, -2, 2, 0] =
      some (some (.answer 7 .done (some 4) none), some (4, [(31, 3), (26, -3), (35, 8), (0, 0)])) := by
  decide +kernel

theorem test_hyps_TrimService :
    (asked (.trim 0 3 [1, 0]) stored).RequestDue 0 7 (.trim 0 3 [1, 0]) ∧
    stored.classEnabled ⟨0, 0⟩ = true ∧ (asked (.trim 0 3 [1, 0]) stored).recordOf ⟨0, 0⟩ = some (0, rec0) ∧
    (running (ctx0 .commit (some .commit)) stored).jobRunning ⟨0, 0⟩ = true ∧
    online.recordOf ⟨0, 0⟩ = none ∧ rec0.applied = some rec0.gen ∧ rec0.cond = .current ∧
    ((asked (.trim 0 3 [1, 0]) stored).takeHead 0 |>.touch 0).slot 0 =
      .occupied { rec0 with stamp := 6 } := by
  refine ⟨⟨⟨[], by decide +kernel⟩, by decide +kernel⟩, ?_⟩
  decide +kernel

theorem test_hyps_RetireAndPark :
    (asked (.retire 0) (running (ctx0 .announce none) stored)).RequestDue 0 7 (.retire 0) ∧
    (asked .park (running (ctx0 .announce none) stored)).RequestDue 0 7 .park ∧
    (running (ctx0 .announce none) stored).QueueSound ∧
    (running (ctx0 .announce none) stored).OneSlotPerKey ∧
    stored.recordOf ⟨0, 0⟩ = some (0, rec0) ∧ rec0.pinned = false ∧ online.recordOf ⟨0, 0⟩ = none ∧
    stored.runningPort 0 = none ∧
    (running (ctx0 .announce none) stored).runningPort 0 = some (0, ctx0 .announce none) := by
  refine ⟨⟨⟨[], by decide +kernel⟩, by decide +kernel⟩, ⟨⟨[], by decide +kernel⟩, by decide +kernel⟩, ?_⟩
  unfold State.QueueSound State.OneSlotPerKey
  decide +kernel

/-- The ANSWER stands before the END of the aborted job; a pinned record stays. -/
theorem test_retire_service :
    (ran (.retireService 0) (asked (.retire 0) (running (ctx0 .announce none) stored))).map (fun t =>
      ((t.port 0).pend, t.slot 0)) =
      some ([plainEntry (.answer 7 .done (some 3) none), plainEntry (.endTraining 0 .cancelled none)],
        .free) ∧
    (ran (.retireService 0) (asked (.retire 0) (withRecord { rec0 with pinned := true } online))).map
      (fun t => (t.port 0).pend) = some [plainEntry (.answer 7 .pinned (some 3) none)] := by
  decide +kernel

/-- PARK puts the running job back without END. -/
theorem test_park_service :
    let s := asked .park (running (ctx0 .announce none) stored)
    (ran (.parkService 0) s).map (fun t => ((t.port 0).state, (t.port 0).pend, t.queued)) =
      some (.parked, [plainEntry (.answer 7 .done none none)], [job0]) ∧
    (ran (.parkService 0) s).map (fun t => ((t.slot 0).record?.map Record.cond, (t.engine 0).ctx)) =
      some (some .dormant, none) := by decide +kernel

/-! ### Output lists -/

/-- A port whose list holds `n` frames, BEGIN first. -/
def listed (n : Nat) : Port :=
  { online.port 0 with
    pend := (⟨.beginTraining 0 9, none⟩ : OutEntry) :: List.replicate (n - 1) (plainEntry .nak) }

theorem test_hyps_FramePlacement :
    (listed 23).outLen < 24 ∧ (listed 23).heldBack = [] ∧ 24 ≤ (listed 24).outLen ∧
    (listed 24).pend = [⟨.beginTraining 0 9, none⟩] ++ plainEntry .nak ::
      List.replicate 22 (plainEntry .nak) ∧
    (plainEntry .nak).frame.isDirective = false ∧
    (∀ f ∈ ({ listed 24 with pend := List.replicate 24 ⟨.beginTraining 0 9, none⟩ } : Port).pend,
      f.frame.isDirective = true) ∧
    ({ listed 23 with heldBack := [⟨plainEntry .hold, 0⟩] } : Port).heldBack = ⟨plainEntry .hold, 0⟩ :: [] := by
  decide +kernel

/-- The 24th frame is placed, the next held back until the NAK nearest the head has gone. -/
theorem test_hold_back :
    ((listed 23).place (plainEntry .hold)).pend.length = 24 ∧
    ((listed 24).place (plainEntry .hold)).heldBack = [⟨plainEntry .hold, 2⟩] ∧
    (((listed 24).place (plainEntry .hold)).frameSent.placeHeld).heldBack = [⟨plainEntry .hold, 1⟩] ∧
    (((listed 24).place (plainEntry .hold)).frameSent.frameSent.placeHeld).heldBack = [] := by
  decide +kernel

/-- A held-back NOTICE that is replaced leaves no trace: the new one waits for the pending frame nearest
the head, and not for the frame by then on the line. A frame that is removed unsent ends the wait for
it too. -/
theorem test_hold_back_after_removal :
    let full : Port := { online.port 0 with pend := List.replicate 24 (plainEntry .nak) }
    let begun := (full.placeNotice 0 .stale 3).startTx
    begun.heldBack = [⟨plainEntry (.notice 0 .stale 3), 1⟩] ∧
    (begun.placeNotice 0 .stale 4).heldBack = [⟨plainEntry (.notice 0 .stale 4), 2⟩] ∧
    (({ full with pend := plainEntry (.notice 1 .stale 3) :: full.pend.tail }.place
      (plainEntry .hold)).removePending (OutFrame.isNoticeFor 1)).heldBack = [⟨plainEntry .hold, 0⟩] := by
  decide +kernel

theorem test_deferred_frame_placement :
    (ran (.deferredFramePlacement 0) { online with
      ports := online.ports.set 0 { listed 23 with heldBack := [⟨plainEntry .hold, 0⟩] } }).map (fun t =>
      ((t.port 0).pend.getLast?, (t.port 0).heldBack)) = some (some (plainEntry .hold), []) := by
  decide +kernel

/-- A job whose frame of id 9 is on the line, its response taken already where `early`. -/
def leaving (early : Bool) : State :=
  running { ctx0 .delaySweep none with
    leaving := some 9, outstanding := if early then none else some 9 }
    { online with ports := online.ports.set 0 { online.port 0 with
        tx := some ⟨.trial 9 .delay [], some 0⟩ } }

theorem test_hyps_FrameSent :
    ((leaving false).port 0).finishing = none ∧
    ((leaving false).port 0).tx = some ⟨.trial 9 .delay [], some 0⟩ ∧
    (OutFrame.trial 9 .delay []).trialId = some 9 ∧
    ((leaving false).engine 0).ctx.map Ctx.leaving = some (some 9) ∧
    ((leaving true).engine 0).ctx.map Ctx.outstanding = some none ∧
    ({ Port.reset with finishing := some (plainEntry .nak) } : Port).finishing = some (plainEntry .nak) ∧
    (online.emit 0 .nak |>.port 0).pend = [plainEntry .nak] := by decide +kernel

/-- The report starts the trial timer, or places the next TRIAL where the response came first. -/
theorem test_frame_sent :
    (ran (.frameSent 0) (leaving false)).map (fun t =>
      ((t.port 0).tx, (t.engine 0).ctx.map Ctx.timer)) = some (none, some (some ⟨0, 50000⟩)) ∧
    (ran (.frameSent 0) (leaving true)).map (fun t =>
      ((t.port 0).pend.length, (t.engine 0).ctx.map Ctx.outstanding)) = some (1, some (some 0)) := by
  decide +kernel

/-! ### Timers -/

theorem test_hyps_FreshnessExpiry :
    ((inState .online .unknown).port 0).temp = .unknown ∧
    (stored.port 0).temp = .fresh 100 ⟨0, 2500000⟩ ∧ stored.runningPort 0 = none ∧
    (running (ctx0 .announce none) stored).runningPort 0 = some (0, ctx0 .announce none) ∧
    (running (ctx0 .announce none) stored).OneSlotPerKey := by
  unfold State.OneSlotPerKey; decide +kernel

theorem test_freshness_expiry :
    (ran (.freshnessExpiry 0) (running (ctx0 .announce none) stored)).map (fun t =>
      ((t.port 0).temp, t.now, t.queued, (t.port 0).pend)) =
      some (.unknown, 2500000, [job0], [plainEntry (.endTraining 0 .deferred none)]) ∧
    (ran (.freshnessExpiry 0) stored).map (fun t => (t.slot 0).record?.map Record.cond) =
      some (some .dormant) := by decide +kernel

theorem test_hyps_AgeTimerExpiry :
    stored.slot 0 = .occupied rec0 ∧ (∀ r, stored.slot 1 ≠ .occupied r) ∧
    (stored.budget 0).ageLimit = 240 ∧ nextAge 239 = 240 ∧ nextAge 238 < 240 ∧ nextAge 65535 = 65535 := by
  refine ⟨by decide +kernel, fun r h => ?_, by decide +kernel⟩
  exact nomatch (show Slot.free = .occupied r from h)

theorem test_age_timer_expiry :
    let sum (t : State) := (t.slot 0).record?.map fun r => (r.age, r.cond, r.ageSince)
    (ran (.ageTimerExpiry 0) (withRecord { rec0 with age := 238 } online)).map sum =
      some (some (239, .current, 1500000000)) ∧
    (ran (.ageTimerExpiry 0) (withRecord { rec0 with age := 239 } online)).map sum =
      some (some (240, .stale, 1500000000)) ∧
    ran (.ageTimerExpiry 23) stored = some stored := by decide +kernel

theorem test_hyps_TrialTimerExpiry :
    ((running (awaitingResponse .delaySweep 5) stored).engine 0).ctx = some (awaitingResponse .delaySweep 5) ∧
    (awaitingResponse .delaySweep 5).timer = some ⟨0, 50000⟩ ∧
    (awaitingResponse .delaySweep 5).retry = false ∧ (ctx0 .announce none).timer = none := by
  decide +kernel

/-- The first expiry sends the trial again under the next id; the second asks for the failure. -/
theorem test_trial_timer_expiry :
    (ran (.trialTimerExpiry 0) (running (awaitingResponse .delaySweep 5) stored)).map (fun t =>
      ((t.engine 0).nextId, (t.engine 0).ctx.map fun c => (c.outstanding, c.retry, c.index))) =
      some (1, some (some 0, true, 5)) ∧
    (ran (.trialTimerExpiry 0) (running { awaitingResponse .delaySweep 5 with retry := true } stored)).map
      (fun t => (t.engine 0).ctx.map fun c => (c.phase, c.request)) =
      some (some (.finish, some (.failure .unresponsive))) := by decide +kernel

theorem test_hyps_SchedulerEvents :
    stored.startList = [] ∧ ({ stored with startList := [5, 6] } : State).startList = 5 :: [6] ∧
    stored.spaceAnyTimer = none ∧ stored.spaceGroupTimer.get 3 = none ∧ stored.autoReqs = [] ∧
    ({ stored with spaceGroupTimer := stored.spaceGroupTimer.set 3 (some 8) } : State).spaceGroupTimer.get 3 =
      some 8 ∧
    (configured.port 0).state = .offline ∧ (crowded.port 0).state ≠ .offline ∧
    (crowded.enqueue ⟨5, 0⟩ .auto .routine).2 = .trainingFull ∧
    (stored.enqueue ⟨0, 0⟩ .auto .routine).2 ≠ .trainingFull := by decide +kernel

theorem test_start_list_departure :
    (ran .startListDeparture { stored with startList := [5, 6] }).map (fun t =>
      (t.startList, t.now, t.decision)) = some ([6], 500005, true) := by decide +kernel

theorem test_space_any_expiry :
    (ran .spaceAnyExpiry { stored with spaceAnyTimer := some 25000 }).map (fun t =>
      (t.spaceAnyTimer, t.now, t.decision)) = some (none, 25000, true) := by decide +kernel

theorem test_space_group_expiry :
    (ran (.spaceGroupExpiry 3) { stored with
      spaceGroupTimer := stored.spaceGroupTimer.set 3 (some 8) }).map (fun t =>
      (t.spaceGroupTimer.get 3, t.now, t.decision)) = some (none, 8, true) := by decide +kernel

/-! ### Training -/

theorem test_auto_request :
    (ran .autoRequest { stored with autoReqs := [⟨0, 0⟩] }).map (fun t => (t.queued, t.autoReqs)) =
      some ([job0], []) ∧
    (ran .autoRequest { crowded with autoReqs := [⟨0, 3⟩], queued := List.replicate 16 ⟨⟨1, 0⟩, .auto, .routine, 0⟩ }).map
      State.events = some 0x10 ∧
    (ran .autoRequest { configured with autoReqs := [⟨0, 0⟩] }).map State.queued = some [] := by
  decide +kernel

/-- E0 running a job of P0/C0 with a test of temperature `v` waiting. -/
def tested (v : Int) (attempts : Nat) : State :=
  let s := running { ctx0 .announce none with job := { job0 with attempts := attempts } } stored
  s.modEngine 0 fun x => { x with tests := [⟨0, v⟩] }

theorem test_hyps_MovementTest :
    ((tested 111 0).OneSlotPerKey) ∧ ((tested 111 0).engine 0).tests = ⟨0, 111⟩ :: [] ∧
    ¬2 * ((110 : Int) - 100).natAbs > ((tested 110 0).budget 0).drift ∧
    ((tested 111 0).budget 0).drift < 2 * ((111 : Int) - 100).natAbs ∧
    (ctx0 .finish (some (.failure .unresponsive))).failing = true ∧
    (ctx0 .commit (some .commit)).failing = false := by
  unfold State.OneSlotPerKey; decide +kernel

/-- Half the drift budget of 20 is 10: 110 stays, 111 moves; a second movement asks for the failure. -/
theorem test_movement_test :
    (ran (.temperatureMovementTest 0) (tested 110 0)).map (fun t => ((t.engine 0).tests, t.queued)) =
      some ([], []) ∧
    (ran (.temperatureMovementTest 0) (tested 111 0)).map (fun t => (t.queued, (t.port 0).lastOutcome)) =
      some ([{ job0 with attempts := 1 }], some (.deferred, 0)) ∧
    (ran (.temperatureMovementTest 0) (tested 111 1)).map (fun t =>
      (t.engine 0).ctx.map Ctx.request) = some (some (some (.failure .unsettled))) := by decide +kernel

/-- A start decision due, with one job queued. -/
def deciding : State := { stored with decision := true, queued := [job0], now := 100000 }

theorem test_hyps_StartDecision :
    deciding.QueueSound ∧ deciding.Admits ∧ deciding.queued = [] ++ job0 :: [] ∧
    deciding.MayStart job0 100 ∧ (0 : EngineId) = (if (deciding.engine 0).ctx = none then 0 else 1) ∧
    ¬State.Admits { deciding with windowLimit := 0 } := by
  refine ⟨by unfold State.QueueSound; decide +kernel, ?_, by decide +kernel, ?_, by decide +kernel, ?_⟩
  · refine ⟨by decide +kernel, by decide +kernel, fun t h => ?_⟩
    exact nomatch (show (none : Option Nat) = some t from h)
  · refine ⟨by decide +kernel, ⟨⟨0, 2500000⟩, by decide +kernel⟩, by decide +kernel, fun t h => ?_⟩
    exact nomatch (show (none : Option Nat) = some t from h)
  · rintro ⟨-, h, -⟩
    exact absurd h (by decide +kernel)

/-- A job starts on E0; one below the overall spacing does not. -/
theorem test_start_decision :
    (ran .startDecision deciding).map (fun t => (t.queued, t.startList, t.spaceAnyTimer)) =
      some ([], [100000], some 125000) ∧
    (ran .startDecision deciding).map (fun t =>
      (t.engine 0).ctx.map fun c => (c.job, c.startTemp, c.request)) =
      some (some (job0, 100, some .reserve)) ∧
    ran .startDecision { deciding with lastAny := some 75001 } =
      some { deciding with lastAny := some 75001, decision := false } := by decide +kernel

/-- A STALE record of a port with autotrain enabled, and a rescan due. -/
def wanting : State :=
  let s := withRecord { rec0 with cond := .stale } online
  { s with rescans := 1, ports := s.ports.set 0 { s.port 0 with autotrain := true } }

theorem test_hyps_Rescan :
    (wanting.QueueSound ∧ wanting.OneSlotPerKey) ∧ wanting.rescans = 0 + 1 ∧ stored.rescans = 0 ∧
    wanting.WantsTraining { rec0 with cond := .stale } = true := by
  unfold State.QueueSound State.OneSlotPerKey; decide +kernel

theorem test_rescan :
    ran .rescan wanting = some { wanting with rescans := 0, decision := true, queued := [job0] } := by
  decide +kernel

/-- E0 waiting for its reservation. -/
def claiming (s : State) : State := running (ctx0 .claim (some .reserve)) s

theorem test_hyps_Reservation :
    ((claiming stored).engine 0).ctx = some (ctx0 .claim (some .reserve)) ∧
    (claiming stored).recordOf ⟨0, 0⟩ = some (0, rec0) ∧ (claiming online).slotOf ⟨0, 0⟩ = none ∧
    ((claiming online).allocate 2).isSome = true ∧ (claiming full).slotOf ⟨0, 0⟩ = none ∧
    ({ claiming full with free := 0, profiles := full.profiles.set 0 (.fill 4 { prof2 with laneCount := 16 }) } :
      State).allocate 16 = none := by decide +kernel

/-- A new key takes a slot; a record keeps its own, and its lanes become the prior values. -/
theorem test_reservation :
    (ran (.reservation 0) (claiming online)).map (fun t => (t.slot 0, t.free, (t.port 0).pend)) =
      some (.reserved ⟨0, 0⟩ 2, 190, [⟨.beginTraining 0 0, some 0⟩]) ∧
    (ran (.reservation 0) (claiming stored)).map (fun t =>
      (t.slots == stored.slots, (t.engine 0).ctx.map fun c => (c.phase, c.prior))) =
      some (true, some (.announce, some [⟨20, none⟩, ⟨62, none⟩])) := by decide +kernel

theorem test_reservation_store_full :
    (ran (.reservation 0) { claiming full with
      free := 0, profiles := full.profiles.set 0 (.fill 4 { prof2 with laneCount := 16 }) }).map
      (fun t => (t.events, (t.engine 0).ctx, (t.port 0).lastOutcome, t.rescans)) =
      some (0x06, none, some (.storeFull, 0), 1) := by decide +kernel

/-- A context at COMMIT whose first lane has an eye and whose second has none. -/
def committing : Ctx :=
  { ctx0 .commit (some .commit) with delayEye := [⟨10, 12, .good⟩, ⟨0, 0, .failed⟩], startTemp := 90 }

/-- The slot of P0/C0 RESERVED. -/
def reserved : State :=
  { online with slots := online.slots.set 0 (.reserved ⟨0, 0⟩ 2), free := 190 }

theorem test_hyps_Commit :
    ((running committing stored).engine 0).ctx = some committing ∧
    (stored.port 0).temp = .fresh 100 ⟨0, 2500000⟩ ∧
    2 * ((100 : Int) - committing.startTemp).natAbs ≤ (stored.budget 0).drift ∧
    (running committing stored).slotOf ⟨0, 0⟩ = some 0 ∧
    (running committing stored).slot 0 = .occupied rec0 ∧
    (running committing reserved).slotOf ⟨0, 0⟩ = some 0 ∧
    (running committing reserved).slot 0 = .reserved ⟨0, 0⟩ 2 ∧ .failed ∈ committing.results ∧
    (∀ c ∈ ((tested 0 0).engine 0).ctx, c.request ≠ some .commit) := by decide +kernel

/-- Over a record the generation advances; into a reservation it is 1. -/
theorem test_commit :
    (ran (.commit 0) (running committing stored)).map (fun t => (t.slot 0, (t.port 0).pend)) =
      some (.occupied { rec0 with
        gen := 4, trained := 90, age := 0
        lanes := [⟨15, 12, none, .good, 0⟩, ⟨62, 0, none, .failed, 0⟩] },
        [plainEntry (.endTraining 0 .part (some 4))]) ∧
    (ran (.commit 0) (running committing reserved)).map (fun t =>
      (t.slot 0).record?.map fun r => (r.gen, r.stamp, r.applied, r.lanes)) =
      some (some (1, 1, none, [⟨15, 12, none, .good, 0⟩, ⟨0, 0, none, .failed, 0⟩])) := by decide +kernel

/-- A commit is taken before a waiting test of an unmoved job, which then finds no job; it is not
taken where the port has moved by more than half the budget. -/
theorem test_commit_and_test :
    let s := (running committing stored).modEngine 0 fun x => { x with tests := [⟨0, 100⟩] }
    (ran (.commit 0) s).map (fun t => (t.engine 0).ctx) = some none ∧
    ((ran (.commit 0) s).bind (ran (.temperatureMovementTest 0))) =
      ran (.commit 0) (running committing stored) ∧
    ran (.commit 0) (running { committing with startTemp := 89 } stored) =
      some (running { committing with startTemp := 89 } stored) := by decide +kernel

theorem test_hyps_FailedEnds :
    (running (ctx0 .evaluate (some .noEye)) reserved).OneSlotPerKey ∧
    ((running (ctx0 .evaluate (some .noEye)) reserved).engine 0).ctx =
      some (ctx0 .evaluate (some .noEye)) ∧
    ((running (ctx0 .finish (some (.failure .unsettled))) stored).engine 0).ctx =
      some (ctx0 .finish (some (.failure .unsettled))) := by
  unfold State.OneSlotPerKey; decide +kernel

/-- NO_EYE releases a reservation, or sets hold-off. -/
theorem test_no_eye :
    (ran (.noEye 0) (running (ctx0 .evaluate (some .noEye)) reserved)).map (fun t =>
      (t.slots == State.reset.slots, t.free, t.events, (t.port 0).lastOutcome)) =
      some (true, 192, 0x02, some (.noEye, 0)) ∧
    (ran (.noEye 0) (running (ctx0 .evaluate (some .noEye)) stored)).map (fun t =>
      (t.slot 0).record?.map Record.holdOff) = some (some true) := by decide +kernel

theorem test_failure_operation :
    (ran (.failureOperation 0) (running (ctx0 .finish (some (.failure .unsettled))) stored)).map (fun t =>
      ((t.slot 0).record?.map Record.holdOff, (t.engine 0).ctx, (t.port 0).pend, t.rescans)) =
      some (some true, none, [plainEntry (.endTraining 0 .unsettled none)], 1) := by decide +kernel

/-! ### The Store Arbiter -/

/-- The rotation of the example of 3.7, first grants: the pointer at P3, with P1, P3, P6 and the
mailbox waiting. -/
def rotating : State :=
  let one : Port := { Port.reset with state := .online, rx := .hunting, reqs := [⟨1, .park⟩] }
  { State.reset with
    arb := 3, ports := ((State.reset.ports.set 1 one).set 3 one).set 6 one
    mb := { Mailbox.reset with copy := some ⟨0x01, 0, 0, 0, none⟩ } }

theorem test_rotation :
    rotating.grant = some 3 ∧ ((rotating.takeHead 3).grant, (rotating.takeHead 3).arb) = (some 6, 4) ∧
    ((rotating.takeHead 3).takeHead 6).grant = some 8 := by decide +kernel

theorem test_hyps_ArbiterGrants :
    rotating.waiting 1 = true ∧ rotating.grant = some 3 ∧ (3 : Requester) ≠ 1 ∧
    State.reset.grant = none ∧ ({ listed 12 with reqs := [⟨1, .park⟩] } : Port).outLen = 12 := by
  decide +kernel

theorem test_hyps_ArbiterGrants_mailbox :
    (commanded 0x01 0 0 0 [] stored).CommandDue ⟨0x01, 0, 0, 0, some []⟩ 0x01 := by
  unfold State.CommandDue; decide +kernel

/-! ### Invariants -/

/-- A state with a record, a running job and a TRIM waiting. -/
def busy : State :=
  asked (.trim 0 3 [1, 0]) (running (ctx0 .announce none) (withRecord rec0 online))

theorem test_hyps_StepsKeepStore :
    busy.PoolBalanced ∧ busy.OneSlotPerKey ∧ busy.StampsDistinct ∧ busy.GenerationsInRange ∧
    ∃ t, step busy = .next t := by
  refine ⟨?_, ?_, ?_, ?_, busy.tick, rfl⟩
  · unfold State.PoolBalanced; decide +kernel
  · unfold State.OneSlotPerKey; decide +kernel
  · unfold State.StampsDistinct; decide +kernel
  · unfold State.GenerationsInRange; decide +kernel

theorem test_hyps_StepsKeepBounds :
    busy.ListsBounded ∧ busy.ParametersInRange ∧ busy.BufferCanonical := by
  refine ⟨?_, ?_, ?_⟩
  · unfold State.ListsBounded; decide +kernel
  · refine ⟨by decide +kernel, by decide +kernel, by decide +kernel, by decide +kernel,
      by decide +kernel, by decide +kernel, ?_, ?_, by decide +kernel⟩
    · unfold Budget.InRange; decide +kernel
    · rintro ⟨p, c⟩
      revert p c
      decide +kernel
  · unfold State.BufferCanonical; decide +kernel

theorem test_busy_is_sound : busy.QueueSound ∧ busy.PortsSound := by
  unfold State.QueueSound State.PortsSound Port.Sound; decide +kernel

theorem test_hyps_StepsKeepCurrentFit : busy.Vouched := by
  refine ⟨test_busy_is_sound.1, test_busy_is_sound.2, ?_, ?_, ?_⟩
  · unfold State.EnginesQuiet Ctx.WaitsQuietly; decide +kernel
  · have only : ∀ i : SlotId, ∀ r ∈ (busy.slot i).record?, r = rec0 := by decide +kernel
    intro i r hr _
    rw [only i r hr]
    exact (by decide +kernel : rec0.fit (busy.budget 0) 100 = true)
  · have only : ∀ e : EngineId, ∀ c ∈ (busy.engine e).ctx, c = ctx0 .announce none := by decide +kernel
    intro e c hc
    rw [only e c hc]
    exact Or.inr (Or.inl (by decide +kernel : moved (busy.budget 0).drift 100 100 = false))

theorem test_hyps_StepsKeepJoined : busy.Joined := by
  refine ⟨by unfold State.OneSlotPerKey; decide +kernel, test_busy_is_sound.1, test_busy_is_sound.2,
    by unfold State.RunnersOnline; decide +kernel, by unfold State.RecordsShaped; decide +kernel,
    by unfold State.ReservationsOwned; decide +kernel, by unfold State.CopiesAgree; decide +kernel, ?_,
    by unfold State.JobsTrainable; decide +kernel⟩
  have only : ∀ p, ∀ r ∈ (busy.port p).reqs, p = 0 ∧ r = ⟨7, .trim 0 3 [1, 0]⟩ := by decide +kernel
  intro p r hr
  obtain ⟨rfl, rfl⟩ := only p r hr
  intro _
  decide +kernel

end Sys2Proof.Tests
end

section
/-! PROOF. The store's books (R2, R3, R7, R12): what each store operation keeps of the pool balance, the
directory, the stamps and the generations. -/

namespace Sys2Proof.Machine

/-! ### The four properties, slot by slot -/

/-- A record's generation and applied generation lie in their ranges (R4, R7). -/
def Record.GenInRange (r : Record) : Prop :=
  1 ≤ r.gen ∧ r.gen ≤ Config.genMax ∧ ∀ g ∈ r.applied, 1 ≤ g ∧ g ≤ r.gen

@[simp] theorem Slot.mem_record? {x : Slot} {r : Record} : r ∈ x.record? ↔ x = .occupied r := by
  cases x <;> simp [Slot.record?]

theorem State.poolBalanced_iff (s : State) :
    s.PoolBalanced ↔ s.free + ∑ i, (s.slot i).lanes = Config.laneEntries := by
  rw [State.PoolBalanced, Table.rows_eq, List.map_map, Fin.sum_univ_def]
  rfl

theorem State.generationsInRange_iff (s : State) :
    s.GenerationsInRange ↔ ∀ i r, s.slot i = .occupied r → r.GenInRange := by
  simp only [State.GenerationsInRange, Slot.mem_record?]
  rfl

/-- Stamps lie below the counter and differ: what an advance of the counter leaves (R12). -/
def State.StampsBelow (s : State) : Prop :=
  s.stamp ≤ Config.stampMax ∧ 1 ≤ s.stamp ∧
  (∀ i r, s.slot i = .occupied r → 1 ≤ r.stamp ∧ r.stamp < s.stamp) ∧
  ∀ i j r q, s.slot i = .occupied r → s.slot j = .occupied q → r.stamp = q.stamp → i = j

theorem State.stampsDistinct_iff (s : State) :
    s.StampsDistinct ↔ s.stamp ≤ Config.stampMax ∧
      (∀ i r, s.slot i = .occupied r → 1 ≤ r.stamp ∧ r.stamp ≤ s.stamp) ∧
      ∀ i j r q, s.slot i = .occupied r → s.slot j = .occupied q → r.stamp = q.stamp → i = j := by
  simp only [State.StampsDistinct, Slot.mem_record?]
  exact and_congr_right fun _ => and_congr_right fun _ =>
    ⟨fun h i j r q hr => h i j r hr q, fun h i j r hr q => h i j r q hr⟩

theorem State.StampsBelow.distinct {s : State} (h : s.StampsBelow) : s.StampsDistinct := by
  obtain ⟨hmax, _, hin, hne⟩ := h
  exact s.stampsDistinct_iff.mpr ⟨hmax, fun i r hr => ⟨(hin i r hr).1, (hin i r hr).2.le⟩, hne⟩

/-! ### Keeping the books -/

/-- What leads from `s` to `t` keeps the store's books, each by itself. -/
structure State.KeepsStore (s t : State) : Prop where
  pool : s.PoolBalanced → t.PoolBalanced
  keys : s.OneSlotPerKey → t.OneSlotPerKey
  stamps : s.StampsDistinct → t.StampsDistinct
  gens : s.GenerationsInRange → t.GenerationsInRange

namespace State.KeepsStore
variable {s t u : State}

theorem refl (s : State) : s.KeepsStore s := ⟨id, id, id, id⟩

theorem trans (h : s.KeepsStore t) (h' : t.KeepsStore u) : s.KeepsStore u :=
  ⟨h'.pool ∘ h.pool, h'.keys ∘ h.keys, h'.stamps ∘ h.stamps, h'.gens ∘ h.gens⟩

/-- An operation that touches neither the slots nor the pool nor the counter. -/
theorem of_eq (hs : t.slots = s.slots) (hf : t.free = s.free) (hc : t.stamp = s.stamp) :
    s.KeepsStore t := by
  have hslot : t.slot = s.slot := by simp only [funext_iff, State.slot, hs, implies_true]
  constructor
  · simp only [State.PoolBalanced, hs, hf, imp_self]
  · simp only [State.OneSlotPerKey, hslot, imp_self]
  · simp only [State.StampsDistinct, hslot, hc, imp_self]
  · simp only [State.GenerationsInRange, hslot, imp_self]

/-- A further operation that touches neither the slots nor the pool nor the counter. -/
theorem frame (h : s.KeepsStore t) (hs : u.slots = t.slots) (hf : u.free = t.free)
    (hc : u.stamp = t.stamp) : s.KeepsStore u := h.trans (of_eq hs hf hc)

end State.KeepsStore

/-! ### Records changed in place -/

/-- A slot as an operation on records may leave it: untouched, or with its record changed but for key,
lane count and stamp, and with the generations kept in range. -/
inductive Slot.Kept : Slot → Slot → Prop
  | same (x : Slot) : Slot.Kept x x
  | record {r q : Record} : q.key = r.key → q.laneCount = r.laneCount → q.stamp = r.stamp →
      (r.GenInRange → q.GenInRange) → Slot.Kept (.occupied r) (.occupied q)

theorem Slot.Kept.key? {x y : Slot} (h : x.Kept y) : y.key? = x.key? := by
  cases h with
  | same => rfl
  | record hk _ _ _ => simp [Slot.key?, hk]

theorem Slot.Kept.lanes {x y : Slot} (h : x.Kept y) : y.lanes = x.lanes := by
  cases h with
  | same => rfl
  | record _ hl _ _ => simpa [Slot.lanes] using hl

theorem Slot.Kept.of_occupied {x : Slot} {q : Record} (h : x.Kept (.occupied q)) :
    ∃ r, x = .occupied r ∧ q.stamp = r.stamp ∧ (r.GenInRange → q.GenInRange) := by
  cases h with
  | same => exact ⟨q, rfl, rfl, id⟩
  | record _ _ hs hg => exact ⟨_, rfl, hs, hg⟩

theorem Slot.kept_mapRecord {f : Record → Record} (hk : ∀ r, (f r).key = r.key)
    (hl : ∀ r, (f r).laneCount = r.laneCount) (hs : ∀ r, (f r).stamp = r.stamp)
    (hg : ∀ r, r.GenInRange → (f r).GenInRange) (x : Slot) : x.Kept (x.mapRecord f) := by
  cases x with
  | free => exact .same _
  | reserved k n => exact .same _
  | occupied r => exact .record (hk r) (hl r) (hs r) (hg r)

namespace State.KeepsStore
variable {s t : State}

theorem of_kept (h : ∀ i, (s.slot i).Kept (t.slot i)) (hf : t.free = s.free)
    (hc : t.stamp = s.stamp) : s.KeepsStore t where
  pool hp := by
    rw [State.poolBalanced_iff] at hp ⊢
    simpa only [hf, (h _).lanes] using hp
  keys hk i j := by simpa only [(h _).key?] using hk i j
  stamps hd := by
    rw [State.stampsDistinct_iff] at hd ⊢
    obtain ⟨hmax, hin, hne⟩ := hd
    refine ⟨hc ▸ hmax, fun i q hq => ?_, fun i j q q' hq hq' => ?_⟩
    · obtain ⟨r, hr, hs, _⟩ := (hq ▸ h i).of_occupied
      rw [hs, hc]
      exact hin i r hr
    · obtain ⟨r, hr, hs, _⟩ := (hq ▸ h i).of_occupied
      obtain ⟨r', hr', hs', _⟩ := (hq' ▸ h j).of_occupied
      rw [hs, hs']
      exact hne i j r r' hr hr'
  gens hg := by
    rw [State.generationsInRange_iff] at hg ⊢
    intro i q hq
    obtain ⟨r, hr, _, hrange⟩ := (hq ▸ h i).of_occupied
    exact hrange (hg i r hr)

theorem setSlot_kept {i : SlotId} {x : Slot} (h : (s.slot i).Kept x) : s.KeepsStore (s.setSlot i x) :=
  of_kept (fun j => by
    rw [State.slot_setSlot]
    split_ifs with hij
    · exact hij ▸ h
    · exact .same _) rfl rfl

theorem setSlot_record {i : SlotId} {r q : Record} (hr : s.slot i = .occupied r)
    (hk : q.key = r.key) (hl : q.laneCount = r.laneCount) (hs : q.stamp = r.stamp)
    (hg : r.GenInRange → q.GenInRange) : s.KeepsStore (s.setSlot i (.occupied q)) :=
  setSlot_kept (hr ▸ .record hk hl hs hg)

end State.KeepsStore

/-! ### The pool (R3) -/

/-- The lane entries of all slots after one is replaced. -/
theorem State.lanes_setSlot (s : State) (i : SlotId) (x : Slot) :
    ∑ j, ((s.setSlot i x).slot j).lanes + (s.slot i).lanes = ∑ j, (s.slot j).lanes + x.lanes := by
  have others : ∑ j ∈ Finset.univ.erase i, ((s.setSlot i x).slot j).lanes =
      ∑ j ∈ Finset.univ.erase i, (s.slot j).lanes :=
    Finset.sum_congr rfl fun j hj => by
      rw [State.slot_setSlot, if_neg (Finset.ne_of_mem_erase hj).symm]
  rw [← Finset.add_sum_erase _ _ (Finset.mem_univ i), others, State.slot_setSlot_self,
    ← Finset.add_sum_erase _ (fun j => (s.slot j).lanes) (Finset.mem_univ i)]
  omega

/-- Replacing a slot by one of as many entries keeps the balance. -/
theorem State.PoolBalanced.setSlot {s : State} (h : s.PoolBalanced) {i : SlotId} {x : Slot}
    (hx : x.lanes = (s.slot i).lanes) : (s.setSlot i x).PoolBalanced := by
  rw [State.poolBalanced_iff] at h ⊢
  have := s.lanes_setSlot i x
  rw [State.setSlot_free]
  omega

/-- Replacing a slot by one of the same key keeps the directory one-to-one. -/
theorem State.OneSlotPerKey.setSlot {s : State} (h : s.OneSlotPerKey) {i : SlotId} {x : Slot}
    (hx : x.key? = (s.slot i).key?) : (s.setSlot i x).OneSlotPerKey := by
  have same : ∀ j, ((s.setSlot i x).slot j).key? = (s.slot j).key? := by
    intro j
    rw [State.slot_setSlot]
    split_ifs with hij
    · rw [hx, hij]
    · rfl
  intro a b
  simpa only [same] using h a b

theorem State.slot_releaseSlot (s : State) (i j : SlotId) :
    (s.releaseSlot i).slot j = if i = j then .free else s.slot j := s.slot_setSlot i j .free

/-- A release returns the slot's entries, and takes a key and a record away (R3, R24). -/
theorem State.keepsStore_releaseSlot (s : State) (i : SlotId) : s.KeepsStore (s.releaseSlot i) where
  pool h := by
    rw [State.poolBalanced_iff] at h ⊢
    have := s.lanes_setSlot i .free
    change s.free + (s.slot i).lanes + ∑ j, ((s.setSlot i .free).slot j).lanes = _
    simp only [Slot.lanes] at this h ⊢
    omega
  keys h a b := by
    simp only [State.slot_releaseSlot]
    split_ifs
    · simp [Slot.key?]
    · simp [Slot.key?]
    · intro hs he
      rw [he] at hs
      simp [Slot.key?] at hs
    · exact h a b
  stamps h := by
    obtain ⟨hmax, hin, hne⟩ := s.stampsDistinct_iff.mp h
    refine (State.stampsDistinct_iff _).mpr ⟨hmax, fun j r hr => ?_, fun j k r q hr hq => ?_⟩
    · rw [State.slot_releaseSlot] at hr
      split_ifs at hr
      exact hin j r hr
    · rw [State.slot_releaseSlot] at hr hq
      split_ifs at hr hq
      exact hne j k r q hr hq
  gens h := by
    rw [State.generationsInRange_iff] at h ⊢
    intro j r hr
    rw [State.slot_releaseSlot] at hr
    split_ifs at hr
    exact h j r hr

/-- A FREE slot is taken for the reservation of a key that has no slot (R3, R19). -/
theorem State.keepsStore_takeReserved {s : State} {i : SlotId} {k : Key} {n : Nat}
    (hi : s.slot i = .free) (hn : n ≤ s.free) (hk : s.slotOf k = none) :
    s.KeepsStore (s.takeSlot i (.reserved k n) n) where
  pool h := by
    rw [State.poolBalanced_iff] at h ⊢
    have := s.lanes_setSlot i (.reserved k n)
    change s.free - n + ∑ j, ((s.setSlot i (.reserved k n)).slot j).lanes = _
    simp only [hi, Slot.lanes] at this h ⊢
    omega
  keys h a b := by
    have hnone := State.slotOf_eq_none.mp hk
    change ((s.setSlot i _).slot a).key?.isSome → ((s.setSlot i _).slot a).key? =
      ((s.setSlot i _).slot b).key? → a = b
    simp only [State.slot_setSlot]
    split_ifs with ha hb hb
    · exact fun _ _ => ha ▸ hb
    · exact fun _ he => absurd he.symm (hnone b)
    · exact fun _ he => absurd he (hnone a)
    · exact h a b
  stamps h := by
    obtain ⟨hmax, hin, hne⟩ := s.stampsDistinct_iff.mp h
    refine (State.stampsDistinct_iff _).mpr ⟨hmax, fun j r hr => ?_, fun j m r q hr hq => ?_⟩
    · change (s.setSlot i _).slot j = _ at hr
      rw [State.slot_setSlot] at hr
      split_ifs at hr
      exact hin j r hr
    · change (s.setSlot i _).slot j = _ at hr
      change (s.setSlot i _).slot m = _ at hq
      rw [State.slot_setSlot] at hr hq
      split_ifs at hr hq
      exact hne j m r q hr hq
  gens h := by
    rw [State.generationsInRange_iff] at h ⊢
    intro j r hr
    change (s.setSlot i _).slot j = _ at hr
    rw [State.slot_setSlot] at hr
    split_ifs at hr
    exact h j r hr

end Sys2Proof.Machine
end

section
/-! PROOF. Last-use stamps: renumbering, the advance of the counter, and a record's new stamp. -/

namespace Sys2Proof.Machine

/-! ### Last-use stamps (R12) -/

theorem State.mem_records {s : State} {r : Record} : r ∈ s.records ↔ ∃ i, s.slot i = .occupied r := by
  simp only [State.records, List.mem_filterMap, Table.mem_rows]
  constructor
  · rintro ⟨x, ⟨i, rfl⟩, hr⟩
    exact ⟨i, Slot.mem_record?.mp hr⟩
  · rintro ⟨i, hi⟩
    exact ⟨_, ⟨i, rfl⟩, Slot.mem_record?.mpr hi⟩

theorem State.length_records_le (s : State) : s.records.length ≤ 24 :=
  s.slots.size ▸ List.length_filterMap_le _ _

/-- The stamp that renumbering gives a record: its place in the order of the stamps (R12). -/
def State.rank (s : State) (r : Record) : Nat :=
  1 + (s.records.filter fun x => x.stamp < r.stamp).length

theorem State.renumber_eq (s : State) : s.renumber = { s with
    slots := s.slots.map (Slot.mapRecord fun r => { r with stamp := s.rank r })
    stamp := s.records.length } := rfl

theorem Slot.mapRecord_eq_occupied {f : Record → Record} {x : Slot} {q : Record} :
    x.mapRecord f = .occupied q ↔ ∃ r, x = .occupied r ∧ f r = q := by
  cases x <;> simp [Slot.mapRecord]

@[simp] theorem Slot.mapRecord_self (x : Slot) : (x.mapRecord fun r => r) = x := by
  cases x <;> rfl

/-- Each present stamp keeps its place: a smaller stamp gives a smaller number. -/
theorem State.rank_lt_rank {s : State} {r q : Record} (hr : r ∈ s.records)
    (h : r.stamp < q.stamp) : s.rank r < s.rank q := by
  have below : (s.records.filter fun x => x.stamp < r.stamp) =
      (s.records.filter fun x => x.stamp < q.stamp).filter fun x => x.stamp < r.stamp := by
    rw [List.filter_filter]
    refine List.filter_congr fun x _ => ?_
    rw [← Bool.decide_and, decide_eq_decide]
    omega
  rw [State.rank, State.rank, below, Nat.add_lt_add_iff_left,
    List.length_filter_lt_length_iff_exists]
  exact ⟨r, List.mem_filter.mpr ⟨hr, by simpa using h⟩, by simp⟩

/-- The numbers given lie from 1 to the number of records. -/
theorem State.rank_le {s : State} {r : Record} (hr : r ∈ s.records) : s.rank r ≤ s.records.length := by
  have : (s.records.filter fun x => x.stamp < r.stamp).length < s.records.length :=
    List.length_filter_lt_length_iff_exists.mpr ⟨r, hr, by simp⟩
  rw [State.rank]
  omega

/-- Renumbering leaves as many stamps in use as there are records (R12). -/
theorem State.stampsDistinct_renumber {s : State} (h : s.StampsDistinct) :
    s.renumber.StampsDistinct ∧ s.renumber.stamp ≤ 24 := by
  obtain ⟨_, _, hne⟩ := s.stampsDistinct_iff.mp h
  have old : ∀ {i q}, s.renumber.slot i = .occupied q →
      ∃ r, s.slot i = .occupied r ∧ q.stamp = s.rank r := by
    intro i q hq
    have hm : (s.slot i).mapRecord (fun r => { r with stamp := s.rank r }) = .occupied q := by
      rw [← hq, State.renumber_eq]
      exact (Table.get_map _ _ _).symm
    obtain ⟨r, hr, rfl⟩ := Slot.mapRecord_eq_occupied.mp hm
    exact ⟨r, hr, rfl⟩
  have len := s.length_records_le
  refine ⟨(State.stampsDistinct_iff _).mpr ⟨?_, fun i q hq => ?_, fun i j q q' hq hq' he => ?_⟩, len⟩
  · exact len.trans (by decide)
  · obtain ⟨r, hr, hs⟩ := old hq
    rw [hs]
    exact ⟨by simp [State.rank], State.rank_le (State.mem_records.mpr ⟨i, hr⟩)⟩
  · obtain ⟨r, hr, hs⟩ := old hq
    obtain ⟨r', hr', hs'⟩ := old hq'
    rw [hs, hs'] at he
    refine hne i j r r' hr hr' ?_
    rcases Nat.lt_trichotomy r.stamp r'.stamp with hlt | heq | hgt
    · exact absurd he (State.rank_lt_rank (State.mem_records.mpr ⟨i, hr⟩) hlt).ne
    · exact heq
    · exact absurd he (State.rank_lt_rank (State.mem_records.mpr ⟨j, hr'⟩) hgt).ne'

/-- An advance of the counter changes the counter and the stamps of records alone (R12). -/
theorem State.advanceStamp_eq (s : State) : ∃ (f : Record → Nat) (n : Nat), s.advanceStamp = { s with
    slots := s.slots.map (Slot.mapRecord fun r => { r with stamp := f r }), stamp := n } := by
  by_cases h : s.stamp = Config.stampMax
  · exact ⟨s.rank, s.records.length + 1, by simp [State.advanceStamp, h, State.renumber_eq]⟩
  · refine ⟨Record.stamp, s.stamp + 1, ?_⟩
    have same : s.slots.map (Slot.mapRecord fun r => { r with stamp := r.stamp }) = s.slots :=
      Table.ext_get fun i => by simp
    simp [State.advanceStamp, h, same]

theorem State.slot_advanceStamp (s : State) : ∃ f : Record → Nat, ∀ i,
    s.advanceStamp.slot i = (s.slot i).mapRecord fun r => { r with stamp := f r } := by
  obtain ⟨f, n, h⟩ := s.advanceStamp_eq
  exact ⟨f, fun i => by rw [h]; exact Table.get_map _ _ _⟩

theorem State.advanceStamp_free (s : State) : s.advanceStamp.free = s.free := by
  obtain ⟨f, n, h⟩ := s.advanceStamp_eq
  rw [h]

/-- After an advance the counter lies above every stamp (R12). -/
theorem State.stampsBelow_advanceStamp {s : State} (h : s.StampsDistinct) :
    s.advanceStamp.StampsBelow := by
  have advance : ∀ {t : State}, t.StampsDistinct → t.stamp < Config.stampMax →
      State.StampsBelow { t with stamp := t.stamp + 1 } := by
    intro t ht hlt
    obtain ⟨_, hin, hne⟩ := t.stampsDistinct_iff.mp ht
    exact ⟨hlt, Nat.le_add_left 1 _,
      fun i r hr => ⟨(hin i r hr).1, Nat.lt_succ_of_le (hin i r hr).2⟩, hne⟩
  by_cases hmax : s.stamp = Config.stampMax
  · obtain ⟨hd, hle⟩ := State.stampsDistinct_renumber h
    simpa [State.advanceStamp, hmax] using advance hd (hle.trans_lt (by decide))
  · simpa [State.advanceStamp, hmax] using advance h (lt_of_le_of_ne h.1 hmax)

theorem State.slotOf_congr {s t : State} (h : ∀ i, (t.slot i).key? = (s.slot i).key?) (k : Key) :
    t.slotOf k = s.slotOf k := by simp only [State.slotOf, h]

@[simp] theorem Slot.key?_mapRecord_stamp (f : Record → Nat) (x : Slot) :
    (x.mapRecord fun r => { r with stamp := f r }).key? = x.key? := by cases x <;> rfl

@[simp] theorem Slot.lanes_mapRecord_stamp (f : Record → Nat) (x : Slot) :
    (x.mapRecord fun r => { r with stamp := f r }).lanes = x.lanes := by cases x <;> rfl

/-- The record written into slot `i` takes the new stamp (R12, R13, R21). -/
theorem State.StampsBelow.setSlot {t : State} (h : t.StampsBelow) (i : SlotId) {x : Slot}
    (hx : ∀ r, x = .occupied r → r.stamp = t.stamp) : (t.setSlot i x).StampsDistinct := by
  obtain ⟨hmax, hpos, hin, hne⟩ := h
  refine (State.stampsDistinct_iff _).mpr ⟨hmax, fun j r hr => ?_, fun j m r q hr hq he => ?_⟩
  · rw [State.slot_setSlot] at hr
    rw [State.setSlot_stamp]
    split_ifs at hr
    · exact (hx r hr).symm ▸ ⟨hpos, le_rfl⟩
    · exact ⟨(hin j r hr).1, (hin j r hr).2.le⟩
  · rw [State.slot_setSlot] at hr hq
    split_ifs at hr hq with hj hm hm
    · exact hj ▸ hm
    · exact absurd he (hx r hr ▸ (hin m q hq).2.ne')
    · exact absurd he (hx q hq ▸ (hin j r hr).2.ne)
    · exact hne j m r q hr hq he

/-- An advance of the counter keeps the books (R12). -/
theorem State.keepsStore_advanceStamp (s : State) : s.KeepsStore s.advanceStamp := by
  obtain ⟨f, hf⟩ := s.slot_advanceStamp
  constructor
  · intro h
    rw [State.poolBalanced_iff] at h ⊢
    simpa only [hf, Slot.lanes_mapRecord_stamp, State.advanceStamp_free] using h
  · intro h a b
    simpa only [hf, Slot.key?_mapRecord_stamp] using h a b
  · exact fun h => (State.stampsBelow_advanceStamp h).distinct
  · intro h
    rw [State.generationsInRange_iff] at h ⊢
    intro j q hq
    rw [hf] at hq
    obtain ⟨r, hr, rfl⟩ := Slot.mapRecord_eq_occupied.mp hq
    exact h j r hr

/-- A slot replaced after an advance of the counter, by one of the same key and lane count whose record,
if it has one, holds the new stamp. -/
theorem State.keepsStore_stamped {s : State} {i : SlotId} {x : Slot}
    (hk : x.key? = (s.slot i).key?) (hl : x.lanes = (s.slot i).lanes)
    (hs : ∀ r, x = .occupied r → r.stamp = s.advanceStamp.stamp)
    (hg : s.GenerationsInRange → ∀ r, x = .occupied r → r.GenInRange) :
    s.KeepsStore (s.advanceStamp.setSlot i x) := by
  obtain ⟨f, hf⟩ := s.slot_advanceStamp
  have advanced := s.keepsStore_advanceStamp
  constructor
  · intro h
    exact (advanced.pool h).setSlot (by rw [hl, hf, Slot.lanes_mapRecord_stamp])
  · intro h
    exact (advanced.keys h).setSlot (by rw [hk, hf, Slot.key?_mapRecord_stamp])
  · exact fun h => (State.stampsBelow_advanceStamp h).setSlot i hs
  · intro h
    have old := (State.generationsInRange_iff _).mp (advanced.gens h)
    rw [State.generationsInRange_iff]
    intro j q hq
    rw [State.slot_setSlot] at hq
    split_ifs at hq
    · exact hg h q hq
    · exact old j q hq

/-- The record of slot `i`, if there is one, takes the next stamp (R12). -/
theorem State.keepsStore_touch (s : State) (i : SlotId) : s.KeepsStore (s.touch i) := by
  obtain ⟨f, hf⟩ := s.slot_advanceStamp
  refine State.keepsStore_stamped ?_ ?_ ?_ ?_
  · cases h : s.slot i <;> simp [hf, h, Slot.mapRecord, Slot.key?]
  · cases h : s.slot i <;> simp [hf, h, Slot.mapRecord, Slot.lanes]
  · intro r hr
    obtain ⟨q, _, rfl⟩ := Slot.mapRecord_eq_occupied.mp hr
    rfl
  · intro hg r hr
    obtain ⟨q, hq, rfl⟩ := Slot.mapRecord_eq_occupied.mp hr
    obtain ⟨q', hq', rfl⟩ := Slot.mapRecord_eq_occupied.mp (hf i ▸ hq)
    exact s.generationsInRange_iff.mp hg i q' hq'

end Sys2Proof.Machine
end

section
/-! PROOF. Allocation and eviction: the candidates in order, the walk of R17, and O21. -/

namespace Sys2Proof.Machine

/-! ### The order of the candidates (R16) -/

/-- A record's place in the candidate order: by condition, then by stamp (R16). -/
def Record.order (r : Record) : ℕ ×ₗ ℕ := toLex (r.cond.rank, r.stamp)

theorem Record.before_iff {a b : Record} : a.before b = true ↔ a.order < b.order := by
  simp [Record.before, Record.order, Prod.Lex.toLex_lt_toLex]

theorem Condition.rank_injective : Function.Injective Condition.rank := by
  intro a b h
  cases a <;> cases b <;> simp_all [Condition.rank]

theorem insertCandidate_perm (x : SlotId × Record) (l : List (SlotId × Record)) :
    (insertCandidate x l).Perm (x :: l) := by
  induction l with
  | nil => exact .refl _
  | cons y l ih =>
    rw [insertCandidate]
    split_ifs
    · exact .refl _
    · exact (ih.cons y).trans (.swap x y l)

theorem foldr_insertCandidate_perm (l : List (SlotId × Record)) :
    (l.foldr insertCandidate []).Perm l := by
  induction l with
  | nil => exact .refl _
  | cons x l ih => exact (insertCandidate_perm x _).trans (ih.cons x)

/-- A candidate whose place differs from all others' is put in its place. -/
theorem pairwise_insertCandidate {x : SlotId × Record} {l : List (SlotId × Record)}
    (hl : l.Pairwise fun a b => a.2.order < b.2.order) (hx : ∀ y ∈ l, x.2.order ≠ y.2.order) :
    (insertCandidate x l).Pairwise fun a b => a.2.order < b.2.order := by
  induction l with
  | nil => simp [insertCandidate]
  | cons y l ih =>
    obtain ⟨hy, hl⟩ := List.pairwise_cons.mp hl
    rw [insertCandidate]
    split_ifs with hb
    · have hxy := Record.before_iff.mp hb
      refine List.pairwise_cons.mpr ⟨fun z hz => ?_, List.pairwise_cons.mpr ⟨hy, hl⟩⟩
      rcases List.mem_cons.mp hz with rfl | hz
      · exact hxy
      · exact hxy.trans (hy z hz)
    · have hyx : y.2.order < x.2.order :=
        lt_of_le_of_ne (not_lt.mp (mt Record.before_iff.mpr hb)) (hx y List.mem_cons_self).symm
      refine List.pairwise_cons.mpr
        ⟨fun z hz => ?_, ih hl fun z hz => hx z (List.mem_cons_of_mem y hz)⟩
      rcases List.mem_cons.mp ((insertCandidate_perm x l).mem_iff.mp hz) with rfl | hz
      · exact hyx
      · exact hy z hz

theorem pairwise_foldr_insertCandidate {l : List (SlotId × Record)}
    (h : l.Pairwise fun a b => a.2.order ≠ b.2.order) :
    (l.foldr insertCandidate []).Pairwise fun a b => a.2.order < b.2.order := by
  induction l with
  | nil => exact .nil
  | cons x l ih =>
    obtain ⟨hx, hl⟩ := List.pairwise_cons.mp h
    exact pairwise_insertCandidate (ih hl) fun y hy =>
      hx y ((foldr_insertCandidate_perm l).mem_iff.mp hy)

/-! ### The candidates (R16) -/

/-- The candidate in a slot, if there is one. -/
def State.candidateAt (s : State) (i : SlotId) : Option (SlotId × Record) :=
  ((s.slot i).record?.filter s.evictable).map fun r => (i, r)

theorem State.candidateAt_eq_some {s : State} {i : SlotId} {x : SlotId × Record} :
    s.candidateAt i = some x ↔ x.1 = i ∧ s.slot i = .occupied x.2 ∧ s.evictable x.2 = true := by
  simp only [State.candidateAt, Option.map_eq_some_iff, Option.filter_eq_some_iff]
  constructor
  · rintro ⟨r, ⟨hr, he⟩, rfl⟩
    exact ⟨rfl, Slot.mem_record?.mp hr, he⟩
  · rintro ⟨rfl, hr, he⟩
    exact ⟨x.2, ⟨Slot.mem_record?.mpr hr, he⟩, rfl⟩

theorem State.candidates_perm (s : State) :
    s.candidates.Perm ((List.finRange 24).filterMap s.candidateAt) := foldr_insertCandidate_perm _

theorem State.mem_candidates {s : State} {i : SlotId} {r : Record} :
    (i, r) ∈ s.candidates ↔ s.slot i = .occupied r ∧ s.evictable r = true := by
  rw [s.candidates_perm.mem_iff, List.mem_filterMap]
  constructor
  · rintro ⟨j, -, h⟩
    obtain ⟨rfl, h⟩ := State.candidateAt_eq_some.mp h
    exact h
  · exact fun h => ⟨i, List.mem_finRange i, State.candidateAt_eq_some.mpr ⟨rfl, h⟩⟩

/-- Candidates stand in different slots. -/
theorem State.nodup_candidates (s : State) : (s.candidates.map Prod.fst).Nodup := by
  rw [(s.candidates_perm.map Prod.fst).nodup_iff, List.map_filterMap]
  have sub : ((List.finRange 24).filterMap fun i => (s.candidateAt i).map Prod.fst).Sublist
      ((List.finRange 24).filterMap some) := by
    induction List.finRange 24 with
    | nil => exact .slnil
    | cons i l ih =>
      cases h : s.candidateAt i with
      | none => simpa [h] using ih.cons i
      | some x => simpa [h, (State.candidateAt_eq_some.mp h).1] using ih.cons_cons i
  rw [List.filterMap_some] at sub
  exact sub.nodup (List.nodup_finRange 24)

/-- With distinct stamps the candidates stand in strict order (R16). -/
theorem State.pairwise_candidates {s : State} (h : s.StampsDistinct) :
    s.candidates.Pairwise fun a b => a.2.order < b.2.order := by
  obtain ⟨_, _, hne⟩ := s.stampsDistinct_iff.mp h
  refine pairwise_foldr_insertCandidate ?_
  rw [List.pairwise_filterMap]
  refine (List.nodup_finRange 24).imp fun {i j} hij a ha b hb he => hij ?_
  obtain ⟨_, ha, _⟩ := State.candidateAt_eq_some.mp ha
  obtain ⟨_, hb, _⟩ := State.candidateAt_eq_some.mp hb
  exact hne i j a.2 b.2 ha hb (congrArg Prod.snd (toLex.injective he))

/-! ### The walk and the evictions (R17, R18) -/

/-- The lane entries that the evictions of some candidates free. -/
def lanesOf (l : List (SlotId × Record)) : Nat := (l.map fun x => x.2.laneCount).sum

/-- `m` is the least number of candidates, at least 1, whose eviction makes room (R17). -/
def LeastRun (need entries : Nat) (l : List (SlotId × Record)) (m : Nat) : Prop :=
  1 ≤ m ∧ m ≤ l.length ∧ need ≤ entries + lanesOf (l.take m) ∧
  ∀ m' < m, 1 ≤ m' → entries + lanesOf (l.take m') < need

theorem LeastRun.unique {need entries : Nat} {l : List (SlotId × Record)} {m m' : Nat}
    (h : LeastRun need entries l m) (h' : LeastRun need entries l m') : m = m' := by
  obtain ⟨h1, _, hn, hl⟩ := h
  obtain ⟨h1', _, hn', hl'⟩ := h'
  rcases Nat.lt_trichotomy m m' with hlt | heq | hgt
  · exact absurd (hl' m hlt h1) (by omega)
  · exact heq
  · exact absurd (hl m' hgt h1') (by omega)

@[simp] theorem lanesOf_cons (x : SlotId × Record) (l : List (SlotId × Record)) :
    lanesOf (x :: l) = x.2.laneCount + lanesOf l := by simp [lanesOf]

/-- A walk that goes past its first candidate goes on as a walk of the others. -/
theorem leastRun_cons {need entries : Nat} {x : SlotId × Record} {l : List (SlotId × Record)} {m : Nat}
    (hx : entries + x.2.laneCount < need) (hm : 1 ≤ m) :
    LeastRun need entries (x :: l) (m + 1) ↔ LeastRun need (entries + x.2.laneCount) l m := by
  simp only [LeastRun, List.length_cons, List.take_succ_cons, lanesOf_cons, ← Nat.add_assoc]
  refine ⟨fun ⟨_, hlen, hn, hl⟩ => ⟨hm, by omega, hn, fun m' hlt h1 => ?_⟩,
    fun ⟨_, hlen, hn, hl⟩ => ⟨by omega, by omega, hn, fun m' hlt h1 => ?_⟩⟩
  · simpa [← Nat.add_assoc] using hl (m' + 1) (by omega) (by omega)
  · obtain ⟨m', rfl⟩ := Nat.exists_eq_add_of_le' h1
    rcases Nat.eq_zero_or_pos m' with rfl | hpos
    · simpa [lanesOf] using hx
    · simpa [← Nat.add_assoc] using hl m' (by omega) hpos

/-- The eviction set is the least run of candidates from the front that makes room (R17). -/
theorem evictionSet_eq_some {need slots entries : Nat} {l : List (SlotId × Record)}
    {set : List SlotId} : evictionSet need slots entries l = some set ↔
      ∃ m, LeastRun need entries l m ∧ set = (l.take m).map Prod.fst := by
  induction l generalizing slots entries set with
  | nil =>
    refine ⟨fun h => by simp [evictionSet] at h, fun ⟨m, ⟨h1, h2, _⟩, _⟩ => ?_⟩
    simp only [List.length_nil] at h2
    omega
  | cons x l ih =>
    rw [evictionSet]
    by_cases hx : need ≤ entries + x.2.laneCount
    · have one : LeastRun need entries (x :: l) 1 :=
        ⟨le_rfl, by simp, by simpa [lanesOf] using hx, fun m' hlt h1 => absurd hlt (by omega)⟩
      rw [if_pos ⟨Nat.le_add_left 1 _, hx⟩, Option.some_inj]
      constructor
      · rintro rfl
        exact ⟨1, one, by simp⟩
      · rintro ⟨m, hm, rfl⟩
        rw [hm.unique one]
        simp
    · rw [if_neg fun h => hx h.2, Option.map_eq_some_iff]
      rw [not_le] at hx
      constructor
      · rintro ⟨set', h, rfl⟩
        obtain ⟨m, hm, rfl⟩ := ih.mp h
        exact ⟨m + 1, (leastRun_cons hx hm.1).mpr hm, by simp⟩
      · rintro ⟨m, hm, rfl⟩
        obtain ⟨m, rfl⟩ := Nat.exists_eq_add_of_le' hm.1
        rcases Nat.eq_zero_or_pos m with rfl | hpos
        · obtain ⟨_, _, hn, _⟩ := hm
          simp only [Nat.zero_add, List.take_succ_cons, List.take_zero, lanesOf_cons] at hn
          simp only [lanesOf, List.map_nil, List.sum_nil] at hn
          omega
        · exact ⟨_, ih.mpr ⟨m, (leastRun_cons hx hpos).mp hm, rfl⟩, by simp⟩

/-- Where no run of candidates makes room there is no eviction set. -/
theorem evictionSet_eq_none {need slots entries : Nat} {l : List (SlotId × Record)} :
    evictionSet need slots entries l = none ↔
      ∀ m, 1 ≤ m → m ≤ l.length → entries + lanesOf (l.take m) < need := by
  rw [Option.eq_none_iff_forall_ne_some]
  constructor
  · intro h m h1 hlen
    by_contra hn
    have ex : ∃ m, 1 ≤ m ∧ m ≤ l.length ∧ need ≤ entries + lanesOf (l.take m) :=
      ⟨m, h1, hlen, not_lt.mp hn⟩
    obtain ⟨a, b, c⟩ := Nat.find_spec ex
    refine h _ (evictionSet_eq_some.mpr ⟨Nat.find ex, ⟨a, b, c, fun m' hlt h1' => ?_⟩, rfl⟩)
    by_contra hn'
    exact Nat.find_min ex hlt ⟨h1', by omega, not_lt.mp hn'⟩
  · rintro h set hs
    obtain ⟨m, ⟨h1, hlen, hn, _⟩, _⟩ := evictionSet_eq_some.mp hs
    exact absurd hn (not_le.mpr (h m h1 hlen))

theorem State.evict_eq (s : State) (i : SlotId) : s.evict i = { s with
    slots := s.slots.set i .free, free := s.free + (s.slot i).lanes
    events := s.events ||| 0x08#8 } := rfl

/-- What evicting records leaves (R18). -/
theorem State.foldl_evict_spec (l : List (SlotId × Record)) (s : State)
    (hl : ∀ x ∈ l, s.slot x.1 = .occupied x.2) (hd : (l.map Prod.fst).Nodup) :
    (l.map Prod.fst).foldl State.evict s = { s with
      slots := ((l.map Prod.fst).foldl State.evict s).slots
      free := s.free + lanesOf l
      events := if l = [] then s.events else s.events ||| 0x08#8 } ∧
    ∀ j, ((l.map Prod.fst).foldl State.evict s).slot j =
      if j ∈ l.map Prod.fst then .free else s.slot j := by
  induction l generalizing s with
  | nil => exact ⟨rfl, fun j => by simp⟩
  | cons x l ih =>
    obtain ⟨hx, hd⟩ := List.nodup_cons.mp hd
    have other : ∀ j, j ≠ x.1 → (s.evict x.1).slot j = s.slot j := fun j hj =>
      Table.get_set_of_ne _ hj.symm _
    have hfree : (s.slot x.1).lanes = x.2.laneCount := by
      rw [hl x List.mem_cons_self]
      rfl
    obtain ⟨heq, hslot⟩ := ih (s.evict x.1) (fun y hy => by
      rw [other]
      · exact hl y (List.mem_cons_of_mem x hy)
      · exact fun he => hx (he ▸ List.mem_map_of_mem hy)) hd
    refine ⟨?_, fun j => ?_⟩
    · rw [List.map_cons, List.foldl_cons, heq]
      simp only [State.evict_eq, hfree, lanesOf_cons, Nat.add_assoc, reduceCtorEq, if_false,
        BitVec.or_assoc, BitVec.or_self, ite_self]
    · rw [List.map_cons, List.foldl_cons, hslot]
      by_cases hj : j = x.1
      · subst hj
        rw [if_neg hx, if_pos List.mem_cons_self]
        exact Table.get_set_self _ _ _
      · simp only [other j hj, List.mem_cons, hj, false_or]

/-! ### Allocation (R15, R17) -/

/-- The state after the eviction of the first `m` candidates. -/
def State.evictFirst (s : State) (m : Nat) : State :=
  ((s.candidates.take m).map Prod.fst).foldl State.evict s

theorem State.evictFirst_spec (s : State) {m : Nat} (h1 : 1 ≤ m) (hm : m ≤ s.candidates.length) :
    s.evictFirst m = { s with
      slots := (s.evictFirst m).slots, free := s.free + lanesOf (s.candidates.take m)
      events := s.events ||| 0x08#8 } ∧
    ∀ j, (s.evictFirst m).slot j =
      if j ∈ (s.candidates.take m).map Prod.fst then .free else s.slot j := by
  have hd : ((s.candidates.take m).map Prod.fst).Nodup := by
    rw [List.map_take]
    exact (List.take_sublist _ _).nodup s.nodup_candidates
  obtain ⟨heq, hslot⟩ := State.foldl_evict_spec (s.candidates.take m) s
    (fun x hx => (State.mem_candidates.mp (List.mem_of_mem_take hx)).1) hd
  have hne : s.candidates.take m ≠ [] := by
    rw [← List.length_pos_iff, List.length_take]
    omega
  rw [if_neg hne] at heq
  exact ⟨heq, hslot⟩

theorem State.lowestFree_spec {s : State} {i : SlotId} (h : s.lowestFree = some i) :
    s.slot i = .free := by
  have := List.find?_some h
  simpa using this

theorem State.lowestFree_isSome {s : State} {i : SlotId} (h : s.slot i = .free) :
    ∃ j, s.lowestFree = some j := by
  rw [← Option.isSome_iff_exists, State.lowestFree, List.find?_isSome]
  exact ⟨i, List.mem_finRange i, by simp [h]⟩

/-- An eviction leaves a FREE slot. -/
theorem State.lowestFree_evictFirst (s : State) {m : Nat} (h1 : 1 ≤ m)
    (hm : m ≤ s.candidates.length) : ∃ i, (s.evictFirst m).lowestFree = some i := by
  obtain ⟨_, hslot⟩ := s.evictFirst_spec h1 hm
  have hpos : 0 < (s.candidates.take m).length := by
    rw [List.length_take]
    omega
  refine State.lowestFree_isSome (i := ((s.candidates.take m)[0]).1) ?_
  rw [hslot, if_pos (List.mem_map_of_mem (List.getElem_mem hpos))]

/-- Without a FREE slot or entries enough an allocation evicts the least run that makes room. -/
theorem State.allocate_of_no_room {s : State} {n : Nat} (h : s.lowestFree = none ∨ s.free < n) :
    s.allocate n = (evictionSet n (24 - s.slotsUsed) s.free s.candidates).bind fun set =>
      (set.foldl State.evict s).lowestFree.map fun i => (i, set.foldl State.evict s) := by
  rw [State.allocate]
  cases hl : s.lowestFree with
  | none => rfl
  | some i =>
    have : ¬ n ≤ s.free := by
      rcases h with h | h
      · simp [hl] at h
      · omega
    simp [this]

/-- The two ways an allocation succeeds: with room at once, or after the least run of evictions. -/
theorem State.allocate_cases {s t : State} {n : Nat} {i : SlotId} (h : s.allocate n = some (i, t)) :
    (t = s ∧ s.lowestFree = some i ∧ n ≤ s.free) ∨
    ∃ m, LeastRun n s.free s.candidates m ∧ t = s.evictFirst m ∧ t.lowestFree = some i := by
  by_cases hr : s.lowestFree = none ∨ s.free < n
  · rw [State.allocate_of_no_room hr, Option.bind_eq_some_iff] at h
    obtain ⟨set, hs, hi⟩ := h
    obtain ⟨m, hm, rfl⟩ := evictionSet_eq_some.mp hs
    rw [Option.map_eq_some_iff] at hi
    obtain ⟨j, hj, he⟩ := hi
    obtain ⟨rfl, rfl⟩ := Prod.mk.inj he
    exact .inr ⟨m, hm, rfl, hj⟩
  · rw [not_or, ← ne_eq, Option.ne_none_iff_exists'] at hr
    obtain ⟨⟨j, hj⟩, hn⟩ := hr
    simp only [State.allocate, hj, if_pos (not_lt.mp hn), Option.some_inj, Prod.mk.injEq] at h
    obtain ⟨rfl, rfl⟩ := h
    exact .inl ⟨rfl, hj, not_lt.mp hn⟩

/-- Settles O21: the walk of R17 stops at its least run, and the candidates are an insertion sort by
condition and stamp. -/
theorem allocation : Obligations.Allocation := by
  intro s n hd
  refine ⟨fun i hi hn => by simp [State.allocate, hi, hn], fun hr gain hgain => ?_, fun i r => ?_, ?_⟩
  · have hg : ∀ m, gain m = s.free + lanesOf (s.candidates.take m) := hgain
    refine ⟨fun hless => ?_, fun m h1 hm hn hleast => ?_⟩
    · rw [State.allocate_of_no_room hr, evictionSet_eq_none.mpr fun m h1 hm => hg m ▸ hless m h1 hm]
      rfl
    · have hset := evictionSet_eq_some (slots := 24 - s.slotsUsed).mpr
        ⟨m, ⟨h1, hm, hg m ▸ hn, fun m' hlt h1' => hg m' ▸ hleast m' hlt h1'⟩, rfl⟩
      obtain ⟨i, hi⟩ := s.lowestFree_evictFirst h1 hm
      obtain ⟨heq, hslot⟩ := s.evictFirst_spec h1 hm
      refine ⟨i, s.evictFirst m, ?_, hi, ?_, ?_, hslot⟩
      · rw [State.allocate_of_no_room hr, hset]
        change (s.evictFirst m).lowestFree.map _ = _
        rw [hi]
        rfl
      · rw [heq]
        exact hg m ▸ hn
      · rw [hg m]
        exact heq
  · rw [State.mem_candidates]
    simp [State.evictable, and_assoc]
  · refine (State.pairwise_candidates hd).imp fun {a b} h => ?_
    rw [Record.order, Record.order, Prod.Lex.toLex_lt_toLex] at h
    exact h.imp_right fun ⟨he, hs⟩ => ⟨Condition.rank_injective he, hs⟩

end Sys2Proof.Machine
end

section
/-! PROOF. What the shared operations leave unchanged, and what the courses of the commands can do, once
each. -/

namespace Sys2Proof.Machine

/-! ### Fields an operation can change -/

theorem State.notify_eq (s : State) (r : Record) (kind : NoticeKind) (gen : Nat) :
    s.notify r kind gen = { s with ports := (s.notify r kind gen).ports } := by
  rw [State.notify]
  split_ifs <;> rfl

theorem State.staleRequest_eq (s : State) (r : Record) : s.staleRequest r = { s with
    autoReqs := (s.staleRequest r).autoReqs, events := (s.staleRequest r).events } := by
  rw [State.staleRequest]
  split_ifs <;> rfl

theorem State.setCondition_eq (s : State) (i : SlotId) (c : Condition) :
    s.setCondition i c = { s with
      slots := (s.setCondition i c).slots, ports := (s.setCondition i c).ports
      autoReqs := (s.setCondition i c).autoReqs, events := (s.setCondition i c).events } := by
  rcases h : s.slot i with _ | ⟨k, n⟩ | r
  · simp only [State.setCondition, h]
  · simp only [State.setCondition, h]
  · rw [(s.setCondition_spec i (fun _ => c) h).1]

theorem State.slot_setCondition (s : State) (i j : SlotId) (c : Condition) :
    (s.setCondition i c).slot j =
      if i = j then (s.slot j).mapRecord fun r => { r with cond := c } else s.slot j := by
  rcases h : s.slot i with _ | ⟨k, n⟩ | r
  · simp only [State.setCondition, h]
    split_ifs with hij
    · rw [← hij, h]
      rfl
    · rfl
  · simp only [State.setCondition, h]
    split_ifs with hij
    · rw [← hij, h]
      rfl
    · rfl
  · rw [(s.setCondition_spec i (fun _ => c) h).1]
    change (s.slots.set i _).get j = _
    rw [Table.get_set]
    split_ifs with hij
    · rw [← hij, h]
      rfl
    · rfl

/-- What an enqueue can do to the queue: nothing, a merge into the key's QUEUED job, or a new job at the
tail of its urgency group (R104, R106). -/
theorem State.enqueue_cases (s : State) (k : Key) (o : JobOrigin) (u : Urgency) :
    ∃ q, (s.enqueue k o u).1 = { s with queued := q, decision := true } ∧
      (q = s.queued ∨
        (∃ j ∈ s.queued, j.key = k ∧
          (q = joinTail { j with origin := mergeOrigin j.origin o, urgency := .urgent }
              (withoutKey k s.queued) ∨
            q = s.queued.map fun x =>
              if x.key = k then { j with origin := mergeOrigin j.origin o } else x)) ∨
        (s.hasJob k = false ∧ s.entriesHeld < Config.queueEntries ∧
          q = joinTail ⟨k, o, u, 0⟩ s.queued)) := by
  rw [State.enqueue]
  by_cases hr : s.jobRunning k = true
  · rw [if_pos hr]
    exact ⟨_, rfl, .inl rfl⟩
  rw [if_neg hr]
  cases hf : s.queued.find? fun j => j.key == k with
  | some j =>
    have hk : j.key = k := by simpa using List.find?_some hf
    by_cases hu : u = .urgent ∧ j.urgency = .routine
    · simp only [if_pos hu]
      exact ⟨_, rfl, .inr (.inl ⟨j, List.mem_of_find?_eq_some hf, hk, .inl rfl⟩)⟩
    · simp only [if_neg hu]
      exact ⟨_, rfl, .inr (.inl ⟨j, List.mem_of_find?_eq_some hf, hk, .inr rfl⟩)⟩
  | none =>
    by_cases hfull : Config.queueEntries ≤ s.entriesHeld
    · simp only [if_pos hfull]
      exact ⟨_, rfl, .inl rfl⟩
    · have hq : s.jobQueued k = false := by
        simpa [State.jobQueued] using hf
      simp only [if_neg hfull]
      exact ⟨_, rfl, .inr (.inr ⟨by simp [State.hasJob, hq, hr], not_le.mp hfull, rfl⟩)⟩

theorem State.enqueue_eq (s : State) (k : Key) (o : JobOrigin) (u : Urgency) :
    (s.enqueue k o u).1 = { s with queued := (s.enqueue k o u).1.queued, decision := true } := by
  obtain ⟨q, h, _⟩ := s.enqueue_cases k o u
  rw [h]

theorem State.enqueueAuto_eq (s : State) (k : Key) : s.enqueueAuto k = { s with
    queued := (s.enqueue k .auto .routine).1.queued, decision := true
    events := (s.enqueueAuto k).events } := by
  unfold State.enqueueAuto
  simp only
  split_ifs
  · rw [State.raise, s.enqueue_eq]
  · rw [s.enqueue_eq]

theorem State.placeDirective_eq (s : State) (e : EngineId) (c : Ctx) (resend : Bool) :
    s.placeDirective e c resend = { s with
      engines := s.engines.set e { s.engine e with
        nextId := (s.engine e).nextId + 1
        ctx := some { c with
          outstanding := some (s.engine e).nextId, leaving := some (s.engine e).nextId
          timer := none, retry := resend } }
      ports := s.ports.set c.job.key.port ((s.port c.job.key.port).place
        ⟨c.directive (s.engine e).nextId, some e⟩) } := rfl

/-- Going on with a context places its next TRIAL or keeps the context (R125). -/
theorem State.proceed_cases (s : State) (e : EngineId) (c : Ctx) :
    s.proceed e c = s.placeDirective e c false ∨ s.proceed e c = s.setCtx e (some c) := by
  rw [State.proceed]
  split_ifs
  · exact .inl rfl
  · exact .inr rfl

theorem State.answerAtOnce_cases (s : State) (p : PortId) (tag : Byte) (st : Status) :
    s.answerAtOnce p tag st = s.emit p (.answer tag st none none) ∨ s.answerAtOnce p tag st = s := by
  rw [State.answerAtOnce]
  split_ifs
  · exact .inl rfl
  · exact .inr rfl

/-- A rescan's walk changes the queue alone, and makes a start decision due (R109). -/
theorem State.rescanWalk_eq (s : State) (l : List Record) : s.rescanWalk l = { s with
    queued := (s.rescanWalk l).queued, decision := (s.rescanWalk l).decision } := by
  induction l generalizing s with
  | nil => rfl
  | cons r l ih =>
    rw [State.rescanWalk]
    split_ifs
    · rfl
    · rw [ih, s.enqueue_eq]
    · exact ih s

/-! ### The courses of the commands -/

/-- What a received good frame can do (R51, R54, R57, R63, R67). -/
theorem State.takeFrame_cases {α : Type} (s : State) (p : PortId) (tag : Byte) (parsed : Option α)
    (act : State → α → State) :
    ((s.port p).state = .offline ∧ s.takeFrame p tag parsed act = s) ∨
    ((s.port p).state = .held ∧ s.takeFrame p tag parsed act = s.hunt p) ∨
    ((s.port p).state ≠ .offline ∧ (s.port p).state ≠ .held ∧
      ((∃ a, parsed = some a ∧ s.takeFrame p tag parsed act = act (s.framed p) a) ∨
        s.takeFrame p tag parsed act = (s.framed p).answerAtOnce p tag .malformed)) := by
  unfold State.takeFrame State.framed
  cases h : (s.port p).state <;> cases parsed <;> simp

/-- The service of a request is nothing, or the request is due and is served (R76, R80). -/
theorem State.serve_cases {α : Type} (s : State) (p : PortId) (kind : ReqBody → Option α)
    (f : State → Byte → α → State) :
    s.serve p kind f = s ∨ ∃ tag body a, s.RequestDue p tag body ∧ kind body = some a ∧
      s.serve p kind f = f (s.takeHead p) tag a := by
  unfold State.serve
  cases hr : (s.port p).reqs with
  | nil => exact .inl rfl
  | cons r rest =>
    cases hk : kind r.body with
    | none => exact .inl (by simp only [hk])
    | some a =>
      by_cases hg : s.grant = some (portRequester p)
      · exact .inr ⟨r.tag, r.body, a, ⟨⟨rest, hr⟩, hg⟩, hk, by simp only [hk, if_pos hg]⟩
      · exact .inl (by simp only [hk, if_neg hg])

theorem State.onGrant_cases (s : State) (code : Byte) (f : State → CmdCopy → State) :
    s.onGrant code f = s ∨
    ∃ c, s.CommandDue c code ∧ s.onGrant code f = f (s.granted mailboxRequester) c := by
  unfold State.onGrant
  cases hc : s.mb.copy with
  | none => exact .inl rfl
  | some c =>
    by_cases hg : c.code = code ∧ s.grant = some mailboxRequester
    · exact .inr ⟨c, ⟨hc, hg.1, hg.2⟩, by simp only [if_pos hg]⟩
    · exact .inl (by simp only [if_neg hg])

theorem State.onGrantKey_cases (s : State) (code : Byte) (f : State → CmdCopy → Key → State) :
    s.onGrantKey code f = s ∨ ∃ c, s.CommandDue c code ∧
      ((∃ k, c.key = some k ∧ s.onGrantKey code f = f (s.granted mailboxRequester) c k) ∨
        s.onGrantKey code f = (s.granted mailboxRequester).endCommand .badValue) := by
  rcases s.onGrant_cases code fun t c => match c.key with
    | some k => f t c k
    | none => t.endCommand .badValue with h | ⟨c, hc, h⟩
  · exact .inl h
  · refine .inr ⟨c, hc, ?_⟩
    cases hk : c.key with
    | some k => exact .inl ⟨k, rfl, h.trans (by simp only [hk])⟩
    | none => exact .inr (h.trans (by simp only [hk]))

theorem State.onCommand_cases (s : State) (code : Byte) (f : State → CmdCopy → State) :
    s.onCommand code f = s ∨ ∃ c, s.mb.copy = some c ∧ c.code = code ∧ s.onCommand code f = f s c := by
  unfold State.onCommand
  cases hc : s.mb.copy with
  | none => exact .inl rfl
  | some c =>
    by_cases hg : c.code = code
    · exact .inr ⟨c, rfl, hg, by simp only [if_pos hg]⟩
    · exact .inl (by simp only [if_neg hg])

theorem State.onRequest_cases (s : State) (e : EngineId) (f : Ctx → StoreRequest → State) :
    s.onRequest e f = s ∨ ∃ c q, (s.engine e).ctx = some c ∧ c.request = some q ∧
      s.onRequest e f = f c q := by
  unfold State.onRequest
  cases hc : (s.engine e).ctx with
  | none => exact .inl rfl
  | some c =>
    cases hq : c.request with
    | none => exact .inl (by simp only [hq])
    | some q => exact .inr ⟨c, q, rfl, hq, by simp only [hq]⟩

/-- Settling is nothing, or carries out an immediate command (R174, log 7). -/
theorem State.settle_cases (s : State) : s.settle = s ∨ ∃ c, s.mb.copy = some c ∧
    ((c.code = 0x08 ∧ s.settle = s.carryEnablePort c) ∨ (c.code = 0x0A ∧ s.settle = s.carryClearHold c) ∨
      (c.code = 0x0C ∧ s.settle = s.carryGetProfile c) ∨
      (c.code = 0x0E ∧ s.settle = s.carryListQueue c)) := by
  unfold State.settle
  cases hc : s.mb.copy with
  | none => exact .inl rfl
  | some c =>
    simp only
    split_ifs with h1 h2 h3 h4
    · exact .inr ⟨c, rfl, .inl ⟨h1, rfl⟩⟩
    · exact .inr ⟨c, rfl, .inr (.inl ⟨h2, rfl⟩)⟩
    · exact .inr ⟨c, rfl, .inr (.inr (.inl ⟨h3, rfl⟩))⟩
    · exact .inr ⟨c, rfl, .inr (.inr (.inr ⟨h4, rfl⟩))⟩
    · exact .inl rfl

/-- A step is a REFCLK period or the command at the front of the queue (log 2). -/
theorem step_cases {s t : State} (h : step s = .next t) : t = s.tick ∨
    ∃ c rest, s.pending = c :: rest ∧ exec c { s with pending := rest } = .next t := by
  unfold step at h
  cases hp : s.pending with
  | nil =>
    rw [hp] at h
    exact .inl (Host.Outcome.next.inj h).symm
  | cons c rest =>
    rw [hp] at h
    exact .inr ⟨c, rest, rfl, h⟩

theorem State.keepsStore_foldl_evict (s : State) (l : List SlotId) :
    s.KeepsStore (l.foldl State.evict s) := by
  induction l generalizing s with
  | nil => exact .refl s
  | cons j l ih =>
    have hj : s.KeepsStore (s.evict j) := (s.keepsStore_releaseSlot j).frame rfl rfl rfl
    exact hj.trans (ih (s.evict j))

/-- What an allocation that succeeds leaves (R15, R17, R18). -/
theorem State.allocate_spec {s t : State} {n : Nat} {i : SlotId} (h : s.allocate n = some (i, t)) :
    t = { s with slots := t.slots, free := t.free, events := t.events } ∧
    t.slot i = .free ∧ n ≤ t.free ∧ s.KeepsStore t ∧
    ∀ j, t.slot j = s.slot j ∨ (t.slot j = .free ∧ ∃ r, s.slot j = .occupied r) := by
  rcases State.allocate_cases h with ⟨rfl, hi, hn⟩ | ⟨m, ⟨h1, hm, hn, _⟩, rfl, hi⟩
  · exact ⟨rfl, State.lowestFree_spec hi, hn, .refl t, fun j => .inl rfl⟩
  · obtain ⟨heq, hslot⟩ := s.evictFirst_spec h1 hm
    refine ⟨by rw [heq], State.lowestFree_spec hi, by rw [heq]; exact hn, ?_, fun j => ?_⟩
    · exact s.keepsStore_foldl_evict _
    · rw [hslot]
      split_ifs with hj
      · obtain ⟨x, hx, rfl⟩ := List.mem_map.mp hj
        exact .inr ⟨rfl, x.2, (State.mem_candidates.mp (List.mem_of_mem_take hx)).1⟩
      · exact .inl rfl

/-- Evictions give no key a slot. -/
theorem State.slotOf_allocate {s t : State} {n : Nat} {i : SlotId} {k : Key}
    (h : s.allocate n = some (i, t)) (hk : s.slotOf k = none) : t.slotOf k = none := by
  obtain ⟨_, _, _, _, hslot⟩ := State.allocate_spec h
  rw [State.slotOf_eq_none] at hk ⊢
  intro j
  rcases hslot j with hj | ⟨hj, _⟩
  · exact hj ▸ hk j
  · simp [hj, Slot.key?]

end Sys2Proof.Machine
end

section
/-! PROOF. Every step keeps the store's books (O57): the books along each shared operation, then along
each command. -/

namespace Sys2Proof.Machine

open State (KeepsStore)

/-- Losing the temperature changes a record's condition and applied generation alone (R9, R32). -/
theorem Record.onTempLost_eq (p : PortId) (clear : Bool) (r : Record) :
    r.onTempLost p clear = { r with
      cond := (r.onTempLost p clear).cond, applied := (r.onTempLost p clear).applied } := by
  rw [Record.onTempLost]
  split_ifs <;> rfl

theorem Record.applied_onTempLost (p : PortId) (clear : Bool) (r : Record) :
    (r.onTempLost p clear).applied = none ∨ (r.onTempLost p clear).applied = r.applied := by
  rw [Record.onTempLost]
  split_ifs <;> simp

/-! ### Books kept along a course

`h.op` says that the books kept up to `t` are kept up to `t.op`. -/

namespace State.KeepsStore
variable {s t : State} (h : s.KeepsStore t)
include h

theorem modPort (p : PortId) (f : Port → Port) : s.KeepsStore (t.modPort p f) := h.frame rfl rfl rfl
theorem hunt (p : PortId) : s.KeepsStore (t.hunt p) := h.frame rfl rfl rfl
theorem emit (p : PortId) (f : OutFrame) : s.KeepsStore (t.emit p f) := h.frame rfl rfl rfl
theorem answer (p : PortId) (tag : Byte) (st : Status) (gen : Option Nat) (flags : Option JobFlags) :
    s.KeepsStore (t.answer p tag st gen flags) := h.frame rfl rfl rfl
theorem placeEnd (k : Key) (o : JobOutcome) (gen : Option Nat) : s.KeepsStore (t.placeEnd k o gen) :=
  h.frame rfl rfl rfl
theorem modEngine (e : EngineId) (f : Engine → Engine) : s.KeepsStore (t.modEngine e f) :=
  h.frame rfl rfl rfl
theorem setCtx (e : EngineId) (c : Option Ctx) : s.KeepsStore (t.setCtx e c) := h.frame rfl rfl rfl
theorem decide : s.KeepsStore t.decide := h.frame rfl rfl rfl
theorem rescanAfter (n : Nat) : s.KeepsStore (t.rescanAfter n) := h.frame rfl rfl rfl
theorem raise (f : EventFlag) : s.KeepsStore (t.raise f) := h.frame rfl rfl rfl
theorem reach (m : Nat) : s.KeepsStore (t.reach m) := h.frame rfl rfl rfl
theorem requeue (j : Job) : s.KeepsStore (t.requeue j) := h.frame rfl rfl rfl
theorem granted (r : Requester) : s.KeepsStore (t.granted r) := h.frame rfl rfl rfl
theorem endCommand (st : Status) (retired : Bool) : s.KeepsStore (t.endCommand st retired) :=
  h.frame rfl rfl rfl
theorem setBudget (c : ClassId) (b : Budget) : s.KeepsStore (t.setBudget c b) := h.frame rfl rfl rfl
theorem setProfile (k : Key) (p : Profile) : s.KeepsStore (t.setProfile k p) := h.frame rfl rfl rfl
theorem withAutoReqs (l : List Key) : s.KeepsStore { t with autoReqs := l } := h.frame rfl rfl rfl
theorem withQueued (q : List Job) : s.KeepsStore { t with queued := q } := h.frame rfl rfl rfl
theorem enteredOnline : s.KeepsStore t.enteredOnline := h.frame rfl rfl rfl

theorem notify (r : Record) (kind : NoticeKind) (gen : Nat) : s.KeepsStore (t.notify r kind gen) := by
  rw [State.notify_eq]
  exact h.frame rfl rfl rfl

theorem staleRequest (r : Record) : s.KeepsStore (t.staleRequest r) := by
  rw [State.staleRequest_eq]
  exact h.frame rfl rfl rfl

theorem turnedStale (r : Record) : s.KeepsStore (t.turnedStale r) := (h.notify _ _ _).staleRequest r

theorem enqueue (k : Key) (o : JobOrigin) (u : Urgency) : s.KeepsStore (t.enqueue k o u).1 := by
  rw [State.enqueue_eq]
  exact h.frame rfl rfl rfl

theorem proceed (e : EngineId) (c : Ctx) : s.KeepsStore (t.proceed e c) := by
  rcases t.proceed_cases e c with he | he
  · exact he ▸ h.frame rfl rfl rfl
  · exact he ▸ h.setCtx e (some c)

theorem answerAtOnce (p : PortId) (tag : Byte) (st : Status) :
    s.KeepsStore (t.answerAtOnce p tag st) := by
  rcases t.answerAtOnce_cases p tag st with he | he
  · exact he ▸ h.emit p _
  · rwa [he]

theorem releaseSlot (i : SlotId) : s.KeepsStore (t.releaseSlot i) := h.trans (t.keepsStore_releaseSlot i)

theorem touch (i : SlotId) : s.KeepsStore (t.touch i) := h.trans (t.keepsStore_touch i)

theorem record {i : SlotId} {r q : Record} (hr : t.slot i = .occupied r) (hk : q.key = r.key)
    (hl : q.laneCount = r.laneCount) (hs : q.stamp = r.stamp) (hg : r.GenInRange → q.GenInRange) :
    s.KeepsStore (t.setSlot i (.occupied q)) := h.trans (.setSlot_record hr hk hl hs hg)

theorem setCondition (i : SlotId) (c : Condition) : s.KeepsStore (t.setCondition i c) := by
  refine h.trans (.of_kept (fun j => ?_) (by rw [t.setCondition_eq]) (by rw [t.setCondition_eq]))
  rw [State.slot_setCondition]
  split_ifs
  · exact Slot.kept_mapRecord (f := fun r => { r with cond := c }) (fun _ => rfl) (fun _ => rfl)
      (fun _ => rfl) (fun _ => id) _
  · exact .same _

theorem evaluate (f : Record → Condition) : s.KeepsStore (t.evaluate f) := by
  obtain ⟨heq, hslot, _⟩ := t.evaluate_spec f
  refine h.trans (.of_kept (fun j => ?_) (by rw [heq]) (by rw [heq]))
  rw [hslot]
  exact Slot.kept_mapRecord (f := fun r => { r with cond := f r }) (fun _ => rfl) (fun _ => rfl)
    (fun _ => rfl) (fun _ => id) _

theorem loseTemp (p : PortId) (clear : Bool) : s.KeepsStore (t.loseTemp p clear) := by
  refine h.trans (.of_kept (fun j => ?_) rfl rfl)
  have hslot : (t.loseTemp p clear).slot j = (t.slot j).mapRecord (Record.onTempLost p clear) :=
    Table.get_map _ _ _
  rw [hslot]
  refine Slot.kept_mapRecord (fun r => ?_) (fun r => ?_) (fun r => ?_) (fun r hg => ?_) _
  · rw [r.onTempLost_eq]
  · rw [r.onTempLost_eq]
  · rw [r.onTempLost_eq]
  · obtain ⟨h1, h2, h3⟩ := hg
    rw [r.onTempLost_eq]
    refine ⟨h1, h2, ?_⟩
    rcases r.applied_onTempLost p clear with he | he
    · simp [he]
    · simpa only [he] using h3

theorem releaseReservation (k : Key) : s.KeepsStore (t.releaseReservation k) := by
  unfold State.releaseReservation
  split
  · exact h
  · split
    · exact h.releaseSlot _
    · exact h
    · exact h

theorem endRun (e : EngineId) (k : Key) : s.KeepsStore (t.endRun e k) :=
  ((h.modPort k.port Port.withdraw).releaseReservation k).setCtx e none

theorem endJob (e : EngineId) (k : Key) (o : JobOutcome) (gen : Option Nat) :
    s.KeepsStore (t.endJob e k o gen) := ((h.endRun e k).placeEnd k o gen).rescanAfter 1

theorem abandon (e : EngineId) (c : Ctx) (sends : Bool) (attempts : Nat) :
    s.KeepsStore (t.abandon e c sends attempts) := by
  have ended := h.endRun e c.job.key
  cases sends
  · exact ended.requeue _
  · exact (ended.placeEnd c.job.key .deferred none).requeue _

theorem abandonPort (p : PortId) (sends : Bool) : s.KeepsStore (t.abandonPort p sends) := by
  unfold State.abandonPort
  split
  · exact h.abandon _ _ _ _
  · exact h

theorem cancelJobs (k : Key) : s.KeepsStore (t.cancelJobs k) := by
  have dequeued := (h.withQueued (withoutKey k t.queued)).rescanAfter
    (t.queued.length - (withoutKey k t.queued).length)
  unfold State.cancelJobs
  simp only
  split
  · exact dequeued.endJob _ _ _ _
  · exact dequeued

theorem removePortJobs (p : PortId) : s.KeepsStore (t.removePortJobs p) := by
  have dequeued := (h.withQueued (t.queued.filter fun j => j.key.port != p)).rescanAfter
    (t.queued.length - (t.queued.filter fun j => j.key.port != p).length)
  unfold State.removePortJobs
  simp only
  split
  · exact (dequeued.endRun _ _).rescanAfter 1
  · exact dequeued

theorem retireHost (i : SlotId) (r : Record) : s.KeepsStore (t.retireHost i r) :=
  (h.releaseSlot i).notify r .retired r.gen

theorem enterSyncing (p : PortId) : s.KeepsStore (t.enterSyncing p) :=
  ((h.modPort p _).loseTemp p false).decide

theorem enterHeld (p : PortId) : s.KeepsStore (t.enterHeld p) :=
  (((((h.modPort p _).emit p .hold).raise .portHeld).loseTemp p false).abandonPort p false).decide

theorem restart (p : PortId) (next : PortState) {reply : State → State}
    (hr : ∀ u, s.KeepsStore u → s.KeepsStore (reply u)) : s.KeepsStore (t.restart p next reply) :=
  ((((hr _ (h.modPort p _)).loseTemp p true).abandonPort p false).modPort p _).decide

theorem disable (p : PortId) : s.KeepsStore (t.disable p) :=
  ((((h.modPort p _).withAutoReqs _).loseTemp p true).removePortJobs p).decide

theorem clearHoldOff (k : Key) : s.KeepsStore (t.clearHoldOff k) := by
  unfold State.clearHoldOff
  split
  · rename_i hr
    exact h.record (State.recordOf_eq_some.mp hr).2 rfl rfl rfl id
  · exact h

theorem setHoldOff (k : Key) : s.KeepsStore (t.setHoldOff k) := by
  unfold State.setHoldOff
  split
  · rename_i hr
    exact h.record (State.recordOf_eq_some.mp hr).2 rfl rfl rfl id
  · exact h

end State.KeepsStore

end Sys2Proof.Machine
end

section
/-! PROOF. The store's books along each command, and O57. -/

namespace Sys2Proof.Machine

open State (KeepsStore)

/-! ### Frames -/

namespace State.KeepsStore
variable {s t : State} (h : s.KeepsStore t)
include h

theorem takeFrame {α : Type} (p : PortId) (tag : Byte) (parsed : Option α) {act : State → α → State}
    (ha : ∀ u a, s.KeepsStore u → s.KeepsStore (act u a)) :
    s.KeepsStore (t.takeFrame p tag parsed act) := by
  have framed : s.KeepsStore (t.framed p) := h.modPort p _
  rcases t.takeFrame_cases p tag parsed act with ⟨_, e⟩ | ⟨_, e⟩ | ⟨_, _, ⟨a, _, e⟩ | e⟩
  · rwa [e]
  · exact e ▸ h.hunt p
  · exact e ▸ ha _ a framed
  · exact e ▸ framed.answerAtOnce p tag _

theorem takeRequest (p : PortId) (tag : Byte) (body : ReqBody) :
    s.KeepsStore (t.takeRequest p tag body) := by
  unfold State.takeRequest State.queueRequest
  split_ifs
  · exact h.modPort p _
  · exact h.answerAtOnce p tag _
  · exact h.answerAtOnce p tag _

theorem takeHello (p : PortId) (tag version : Byte) : s.KeepsStore (t.takeHello p tag version) := by
  unfold State.takeHello State.helloSyncing State.helloRestart
  split_ifs
  · exact ((h.emit p _).modPort p _).enteredOnline
  · exact h.answerAtOnce p tag _
  · exact (h.restart p .online fun u hu => hu.emit p _).enteredOnline
  · exact h.restart p .syncing fun u hu => hu.answer p tag _ _ _

theorem handTest (p : PortId) (v : Int) : s.KeepsStore (t.handTest p v) := by
  unfold State.handTest
  split
  · exact h.modEngine _ _
  · exact h

theorem takeTemp (p : PortId) (v : Int) : s.KeepsStore (t.takeTemp p v) := by
  unfold State.takeTemp
  split_ifs
  · exact (((h.modPort p _).evaluate _).handTest p v).decide
  · exact h

theorem takeWake (p : PortId) (tag : Byte) : s.KeepsStore (t.takeWake p tag) := by
  unfold State.takeWake
  split
  · exact ((h.answer p tag _ _ _).modPort p _).enteredOnline
  · exact h.answerAtOnce p tag _
  · exact h.answerAtOnce p tag _
  · exact h
  · exact h

theorem takeResync (p : PortId) (tag : Byte) (payload : List Byte) :
    s.KeepsStore (t.takeResync p tag payload) := by
  unfold State.takeResync
  split_ifs
  · exact (h.hunt p).enterSyncing p
  · exact h.takeFrame p tag _ fun _ _ hu => hu

theorem takeReady (p : PortId) (id : Byte) : s.KeepsStore (t.takeReady p id) := by
  unfold State.takeReady
  split
  · split_ifs
    · exact h.proceed _ _
    · exact h
  · exact h

theorem takeResult (p : PortId) (id : Byte) (counts : List Nat) :
    s.KeepsStore (t.takeResult p id counts) := by
  unfold State.takeResult
  split
  · split_ifs
    · exact h.proceed _ _
    · exact h
  · exact h

theorem applyPolicy (p : PortId) : s.KeepsStore (t.applyPolicy p) := by
  unfold State.applyPolicy
  simp only
  split_ifs
  · exact h.modPort p _
  · exact h.enterHeld p

theorem takeBad (p : PortId) : s.KeepsStore (t.takeBad p) := by
  unfold State.takeBad
  split
  · exact h
  · exact h.hunt p
  · exact h.applyPolicy p
  · exact h.applyPolicy p
  · exact h.applyPolicy p

/-! ### The mailbox commands -/

theorem endWithBuffer (bytes : List Byte) : s.KeepsStore (t.endWithBuffer bytes) :=
  h.frame rfl rfl rfl

theorem carryEnablePort (c : CmdCopy) : s.KeepsStore (t.carryEnablePort c) := by
  unfold State.carryEnablePort
  split
  · exact h.endCommand _ _
  · split_ifs
    · exact ((h.modPort _ _).enterSyncing _).endCommand _ _
    · exact h.endCommand _ _

theorem carryClearHold (c : CmdCopy) : s.KeepsStore (t.carryClearHold c) := by
  unfold State.carryClearHold
  split
  · exact h.endCommand _ _
  · split_ifs
    · exact (h.enterSyncing _).endCommand _ _
    · exact h.endCommand _ _

theorem carryDisablePort (c : CmdCopy) : s.KeepsStore (t.carryDisablePort c) := by
  unfold State.carryDisablePort
  split
  · exact h.endCommand _ _
  · split_ifs
    · exact h.endCommand _ _
    · exact (h.disable _).endCommand _ _

theorem carryCancelTraining (c : CmdCopy) : s.KeepsStore (t.carryCancelTraining c) := by
  unfold State.carryCancelTraining
  split
  · exact h.endCommand _ _
  · split_ifs
    · exact (h.cancelJobs _).endCommand _ _
    · exact h.endCommand _ _

theorem carryGetProfile (c : CmdCopy) : s.KeepsStore (t.carryGetProfile c) := by
  unfold State.carryGetProfile
  split
  · exact h.endCommand _ _
  · exact h.endWithBuffer _

theorem settle : s.KeepsStore t.settle := by
  rcases t.settle_cases with e | ⟨c, _, ⟨_, e⟩ | ⟨_, e⟩ | ⟨_, e⟩ | ⟨_, e⟩⟩
  · rwa [e]
  · exact e ▸ h.carryEnablePort c
  · exact e ▸ h.carryClearHold c
  · exact e ▸ h.carryGetProfile c
  · exact e ▸ h.endWithBuffer _

theorem startCommand (code : Byte) : s.KeepsStore (t.startCommand code) := by
  have started : s.KeepsStore { t with mb := { t.mb with
      cmd := code, result := .none, retired := false, copy := some (t.mb.copyFor code) } } :=
    h.frame rfl rfl rfl
  unfold State.startCommand
  simp only
  split_ifs
  · exact h.raise _
  · split
    · exact started.endCommand _ _
    · exact started
  · exact started.endCommand _ _

theorem onGrantKey (code : Byte) {f : State → CmdCopy → Key → State}
    (hf : ∀ u c k, s.KeepsStore u → s.KeepsStore (f u c k)) : s.KeepsStore (t.onGrantKey code f) := by
  have granted := h.granted mailboxRequester
  rcases t.onGrantKey_cases code f with e | ⟨c, _, ⟨k, _, e⟩ | e⟩
  · rwa [e]
  · exact e ▸ hf _ c k granted
  · exact e ▸ granted.endCommand _ _

theorem onCommand (code : Byte) {f : State → CmdCopy → State} (hf : ∀ c, s.KeepsStore (f t c)) :
    s.KeepsStore (t.onCommand code f) := by
  rcases t.onCommand_cases code f with e | ⟨c, _, _, e⟩
  · rwa [e]
  · exact e ▸ hf c

theorem carryReadRecord (c : CmdCopy) (k : Key) : s.KeepsStore (t.carryReadRecord c k) := by
  unfold State.carryReadRecord
  split
  · exact h.endWithBuffer _
  · exact h.endCommand _ _

theorem carryPin (k : Key) (on : Bool) : s.KeepsStore (t.carryPin k on) := by
  unfold State.carryPin
  split
  · rename_i i r hr
    have pinned := h.record (q := { r with pinned := on }) (State.recordOf_eq_some.mp hr).2
      rfl rfl rfl id
    exact pinned.endCommand _ _
  · exact h.endCommand _ _

theorem carryRetireRecord (c : CmdCopy) (k : Key) : s.KeepsStore (t.carryRetireRecord c k) := by
  unfold State.carryRetireRecord
  split
  · exact ((h.retireHost _ _).cancelJobs k).endCommand _ _
  · exact (h.cancelJobs k).endCommand _ _

theorem carryQueueTraining (c : CmdCopy) (k : Key) : s.KeepsStore (t.carryQueueTraining c k) := by
  unfold State.carryQueueTraining
  split
  · exact h.endCommand _ _
  · exact ((h.clearHoldOff k).enqueue _ _ _).endCommand _ _

theorem carrySetProfile (c : CmdCopy) (k : Key) : s.KeepsStore (t.carrySetProfile c k) := by
  unfold State.carrySetProfile
  split_ifs
  · exact h.endCommand _ _
  · split
    · exact h.endCommand _ _
    · simp only
      split_ifs
      · split
        · exact (((h.setProfile k _).retireHost _ _).cancelJobs k).endCommand _ _
        · exact (h.setProfile k _).endCommand _ _
      · exact (h.setProfile k _).endCommand _ _

end State.KeepsStore

/-! ### PRELOAD_RECORD (R23, R176) -/

/-- A generation advanced, with the wrap, stays in range with its applied generation (R7). -/
theorem Record.genInRange_advance {r : Record} (h : r.GenInRange) : r.advance.GenInRange := by
  obtain ⟨h1, h2, h3⟩ := h
  by_cases hw : r.gen = Config.genMax
  · simp [Record.GenInRange, Record.advance, nextGen, hw, Config.genMax]
  · simp only [Record.GenInRange, Record.advance, nextGen, hw, if_false]
    exact ⟨by omega, by omega, fun g hg => ⟨(h3 g hg).1, (h3 g hg).2.trans (Nat.le_succ _)⟩⟩

/-- A record with the next stamp is created in a FREE slot, for a key that has none (R12, R23). -/
theorem State.keepsStore_create {s : State} {i : SlotId} {r : Record} (hi : s.slot i = .free)
    (hn : r.laneCount ≤ s.free) (hk : s.slotOf r.key = none)
    (hs : r.stamp = s.advanceStamp.stamp) (hg : r.GenInRange) :
    s.KeepsStore (s.advanceStamp.takeSlot i (.occupied r) r.laneCount) := by
  obtain ⟨f, hf⟩ := s.slot_advanceStamp
  have hfree : s.advanceStamp.slot i = .free := by rw [hf, hi]; rfl
  have hkey : s.advanceStamp.slotOf r.key = none := by
    rw [State.slotOf_congr (s := s) fun j => by rw [hf, Slot.key?_mapRecord_stamp]]
    exact hk
  have via : s.advanceStamp.takeSlot i (.occupied r) r.laneCount =
      (s.advanceStamp.takeSlot i (.reserved r.key r.laneCount) r.laneCount).setSlot i
        (.occupied r) := by simp [State.takeSlot, State.setSlot]
  have taken := s.keepsStore_advanceStamp.trans (State.keepsStore_takeReserved (n := r.laneCount)
    hfree (s.advanceStamp_free ▸ hn) hkey)
  have hslot : (s.advanceStamp.takeSlot i (.reserved r.key r.laneCount) r.laneCount).slot i =
      .reserved r.key r.laneCount := Table.get_set_self _ _ _
  constructor
  · intro h
    rw [via]
    exact (taken.pool h).setSlot (by rw [hslot]; rfl)
  · intro h
    rw [via]
    exact (taken.keys h).setSlot (by rw [hslot]; rfl)
  · intro h
    have stamped : (s.advanceStamp.setSlot i (.occupied r)).StampsDistinct :=
      (State.stampsBelow_advanceStamp h).setSlot i (by rintro _ ⟨⟩; exact hs)
    exact stamped
  · intro h
    have old := (State.generationsInRange_iff _).mp (taken.gens h)
    rw [via, State.generationsInRange_iff]
    intro j q hq
    rw [State.slot_setSlot] at hq
    split_ifs at hq
    · cases hq
      exact hg
    · exact old j q hq

/-- A key without a record that is not RESERVED has no slot (R2). -/
theorem State.slotOf_eq_none_of_not_reserved {s : State} {k : Key} (hr : s.recordOf k = none)
    (hn : s.reservedFor k = false) : s.slotOf k = none := by
  simpa [State.reservedFor, hr] using hn

namespace State.KeepsStore
variable {s t : State} (h : s.KeepsStore t)
include h

theorem preloadOver (m : Memory) (lanes : List LaneEntry) {i : SlotId} {r : Record}
    (hr : t.slot i = .occupied r) : s.KeepsStore (t.preloadOver m lanes i r) := by
  have written : ∀ c, s.KeepsStore (t.setSlot i
      (.occupied { r.advance.preloaded m lanes t.now with cond := c })) := fun c =>
    h.record hr rfl rfl rfl Record.genInRange_advance
  unfold State.preloadOver
  simp only
  split_ifs
  · exact ((written _).notify _ _ _).staleRequest _
  · exact (written _).notify _ _ _

theorem preloadNew (m : Memory) (lanes : List LaneEntry) {i : SlotId} {k : Key}
    (hi : t.slot i = .free) (hn : (t.profile k).laneCount ≤ t.free) (hk : t.slotOf k = none) :
    s.KeepsStore (t.preloadNew m lanes i k) := by
  have created : ∀ r : Record, r.key = k → r.gen = 1 → r.applied = none →
      r.stamp = t.advanceStamp.stamp → r.laneCount = (t.profile k).laneCount →
      s.KeepsStore (t.advanceStamp.takeSlot i (.occupied r) (t.profile k).laneCount) := by
    intro r hkey hgen happ hs hl
    rw [← hl]
    refine h.trans (State.keepsStore_create hi (hl ▸ hn) (hkey ▸ hk) hs ?_)
    simp [Record.GenInRange, hgen, happ, Config.genMax]
  unfold State.preloadNew
  simp only
  split_ifs
  · exact (created _ rfl rfl rfl rfl rfl).turnedStale _
  · exact created _ rfl rfl rfl rfl rfl

theorem carryPreload (c : CmdCopy) (k : Key) : s.KeepsStore (t.carryPreload c k) := by
  unfold State.carryPreload
  simp only
  split_ifs with _ _ hj
  · exact h.endCommand _ _
  · exact h.endCommand _ _
  · split
    · exact h.endCommand _ _
    · exact h.endCommand _ _
  · simp only [not_or, Bool.not_eq_true] at hj
    split
    · split
      · rename_i hr
        exact (h.preloadOver _ _ (State.recordOf_eq_some.mp hr).2).endCommand _ _
      · rename_i hr
        have hk := State.slotOf_eq_none_of_not_reserved hr hj.2
        split
        · rename_i i u ha
          obtain ⟨heq, hi, hn, hkeep, _⟩ := State.allocate_spec ha
          have hp : u.profile k = t.profile k := by rw [heq]; rfl
          exact ((h.trans hkeep).preloadNew _ _ hi (hp ▸ hn)
            (State.slotOf_allocate ha hk)).endCommand _ _
        · exact (h.raise _).endCommand _ _
    · exact h.endCommand _ _

/-! ### Services (chapter 4) -/

theorem serve {α : Type} (p : PortId) (kind : ReqBody → Option α) {f : State → Byte → α → State}
    (hf : ∀ u tag a, s.KeepsStore u → s.KeepsStore (f u tag a)) : s.KeepsStore (t.serve p kind f) := by
  have taken : s.KeepsStore (t.takeHead p) := (h.modPort p _).granted _
  rcases t.serve_cases p kind f with e | ⟨tag, body, a, _, _, e⟩
  · rwa [e]
  · exact e ▸ hf _ tag a taken

theorem ifEnabled (k : Key) (tag : Byte) {f : State → State} (hf : s.KeepsStore (f t)) :
    s.KeepsStore (t.ifEnabled k tag f) := by
  unfold State.ifEnabled
  split_ifs
  · exact hf
  · exact h.answer _ _ _ _ _

theorem serveLookup (k : Key) (tag : Byte) : s.KeepsStore (t.serveLookup k tag) := by
  unfold State.serveLookup
  split
  · exact (h.touch _).emit _ _
  · exact h.answer _ _ _ _ _

theorem serveRetire (k : Key) (tag : Byte) : s.KeepsStore (t.serveRetire k tag) := by
  unfold State.serveRetire
  split
  · split_ifs
    · exact h.answer _ _ _ _ _
    · exact ((h.releaseSlot _).answer _ _ _ _ _).cancelJobs k
  · exact (h.answer _ _ _ _ _).cancelJobs k

theorem serveTrain (k : Key) (tag : Byte) (u : Urgency) : s.KeepsStore (t.serveTrain k tag u) :=
  ((h.clearHoldOff k).enqueue k .port u).answer _ _ _ _ _

theorem servePark (p : PortId) (tag : Byte) : s.KeepsStore (t.servePark p tag) :=
  ((((h.answer p tag _ _ _).modPort p _).loseTemp p false).abandonPort p false).decide

end State.KeepsStore

/-- The record of slot `i`, given a new stamp, is otherwise as it was (R12). -/
theorem State.slot_touch {s : State} {i : SlotId} {r : Record} (h : s.slot i = .occupied r) :
    (s.touch i).slot i = .occupied { r with stamp := s.advanceStamp.stamp } := by
  obtain ⟨f, hf⟩ := s.slot_advanceStamp
  simp [State.touch, hf, h, Slot.mapRecord]

/-- A trim leaves the new generation, applied too, in range (R92). -/
theorem Record.genInRange_trimmed {r : Record} (deltas : List Int) (h : r.GenInRange) :
    (r.trimmed deltas).GenInRange := by
  obtain ⟨h1, h2, _⟩ := Record.genInRange_advance h
  refine ⟨h1, h2, ?_⟩
  rintro _ ⟨⟩
  exact ⟨h1, le_rfl⟩

namespace State.KeepsStore
variable {s t : State} (h : s.KeepsStore t)
include h

theorem serveApplied (k : Key) (tag : Byte) (g : Nat) : s.KeepsStore (t.serveApplied k tag g) := by
  unfold State.serveApplied
  split
  · rename_i i r hr
    have touched := State.slot_touch (State.recordOf_eq_some.mp hr).2
    simp only
    split_ifs with hg
    · have applied : s.KeepsStore ((t.touch i).setSlot i
          (.occupied { r with stamp := t.advanceStamp.stamp, applied := some g })) := by
        refine (h.touch i).record touched rfl rfl rfl fun ⟨h1, h2, _⟩ => ⟨h1, h2, ?_⟩
        rintro _ ⟨⟩
        exact ⟨hg.symm ▸ h1, hg.le⟩
      rw [touched]
      exact applied.answer _ _ _ _ _
    · exact (h.touch i).answer _ _ _ _ _
  · exact h.answer _ _ _ _ _

theorem serveTrim (k : Key) (tag : Byte) (g : Nat) (deltas : List Int) :
    s.KeepsStore (t.serveTrim k tag g deltas) := by
  unfold State.serveTrim
  split
  · rename_i i r hr
    have touched := State.slot_touch (State.recordOf_eq_some.mp hr).2
    simp only
    split
    · have trimmed := (h.touch i).record (q := Record.trimmed { r with stamp := t.advanceStamp.stamp } deltas)
        touched rfl rfl rfl (Record.genInRange_trimmed deltas)
      rw [touched]
      exact trimmed.answer _ _ _ _ _
    · exact (h.touch i).answer _ _ _ _ _
    · exact ((h.touch i).answer _ _ _ _ _).setCondition i .stale
    · exact (h.touch i).answer _ _ _ _ _
  · exact h.answer _ _ _ _ _

/-! ### Register writes -/

theorem writeTrw (v : Byte) : s.KeepsStore (t.writeTrw v) := by
  unfold State.writeTrw
  split_ifs
  · exact h.frame rfl rfl rfl
  · exact h

theorem writeWindowLimit (v : Byte) : s.KeepsStore (t.writeWindowLimit v) := by
  unfold State.writeWindowLimit
  split_ifs
  · exact h.frame rfl rfl rfl
  · exact h

theorem writeSpaceAny (v : Byte) : s.KeepsStore (t.writeSpaceAny v) := by
  unfold State.writeSpaceAny
  split_ifs
  · exact h.frame rfl rfl rfl
  · exact h

theorem writeSpaceGroup (v : Byte) : s.KeepsStore (t.writeSpaceGroup v) := by
  unfold State.writeSpaceGroup
  split_ifs
  · exact h.frame rfl rfl rfl
  · exact h

theorem writeTrialTimeout (v : Byte) : s.KeepsStore (t.writeTrialTimeout v) := by
  unfold State.writeTrialTimeout
  split_ifs
  · exact h.frame rfl rfl rfl
  · exact h

theorem writeFreshTime (v : Byte) : s.KeepsStore (t.writeFreshTime v) := by
  unfold State.writeFreshTime
  split_ifs
  · exact h.frame rfl rfl rfl
  · exact h

theorem handBudgetTests (c : ClassId) : s.KeepsStore (t.handBudgetTests c) := h.frame rfl rfl rfl

theorem writeDriftBudget (c : ClassId) (v : Byte) : s.KeepsStore (t.writeDriftBudget c v) := by
  unfold State.writeDriftBudget
  split_ifs
  · exact ((h.setBudget c _).evaluate _).handBudgetTests c
  · exact h

theorem writeAgeLimit (c : ClassId) (v : Byte) : s.KeepsStore (t.writeAgeLimit c v) := by
  unfold State.writeAgeLimit
  simp only
  split_ifs
  · exact (h.setBudget c _).evaluate _
  · exact h.setBudget c _

theorem writeTrimLimit (c : ClassId) (v : Byte) : s.KeepsStore (t.writeTrimLimit c v) := by
  unfold State.writeTrimLimit
  split_ifs
  · exact (h.setBudget c _).evaluate _
  · exact h

theorem writeBudgetByte (off : Nat) (v : Byte) : s.KeepsStore (t.writeBudgetByte off v) := by
  unfold State.writeBudgetByte
  simp only
  split_ifs
  · exact h.writeDriftBudget _ v
  · exact h.setBudget _ _
  · exact h.writeAgeLimit _ v
  · exact h.writeTrimLimit _ v

theorem writePatternByte (off : Nat) (v : Byte) : s.KeepsStore (t.writePatternByte off v) := by
  unfold State.writePatternByte
  simp only
  split_ifs
  · exact h.frame rfl rfl rfl
  · exact h.frame rfl rfl rfl

theorem writeAutotrain (p : PortId) (v : Byte) : s.KeepsStore (t.writeAutotrain p v) := by
  unfold State.writeAutotrain
  simp only
  split_ifs
  · exact (h.modPort p _).rescanAfter 1
  · exact h.modPort p _

theorem writePortByte (off : Nat) (v : Byte) : s.KeepsStore (t.writePortByte off v) := by
  unfold State.writePortByte
  simp only
  split_ifs
  · exact h.modPort _ _
  · exact h.writeAutotrain _ v
  · exact h

omit h in
/-- An empty store is in order (R28, R29). -/
theorem of_empty (hslot : ∀ i, t.slot i = .free) (hf : t.free = Config.laneEntries)
    (hc : t.stamp = 0) : s.KeepsStore t where
  pool _ := by
    rw [State.poolBalanced_iff]
    simp [hslot, hf, Slot.lanes]
  keys _ i j := by simp [hslot, Slot.key?]
  stamps _ := (State.stampsDistinct_iff t).mpr
    ⟨hc ▸ Nat.zero_le _, fun i r hr => by simp [hslot] at hr, fun i j r q hr => by simp [hslot] at hr⟩
  gens _ := (State.generationsInRange_iff t).mpr fun i r hr => by simp [hslot] at hr

omit h in
theorem hardReset : s.KeepsStore t.hardReset := of_empty (fun i => Table.get_fill _ i) rfl rfl

omit h in
theorem softReset (alert : Bool) : s.KeepsStore (t.softReset alert) :=
  of_empty (fun i => Table.get_fill _ i) rfl rfl

theorem writeCtrl (v : Byte) : s.KeepsStore (t.writeCtrl v) := by
  unfold State.writeCtrl
  split_ifs
  · exact softReset _
  · exact h.frame rfl rfl rfl

theorem setMailbox (m : Mailbox) : s.KeepsStore (t.setMailbox m) := h.frame rfl rfl rfl

omit h in
theorem ite {c : Prop} [Decidable c] {a b : State} (ha : s.KeepsStore a) (hb : s.KeepsStore b) :
    s.KeepsStore (if c then a else b) := by
  split_ifs
  · exact ha
  · exact hb

theorem writeByte (a : Nat) (v : Byte) : s.KeepsStore (t.writeByte a v) :=
  .ite (h.writeCtrl v) <| .ite (h.frame rfl rfl rfl) <| .ite (h.frame rfl rfl rfl) <|
  .ite (h.startCommand v) <| .ite (h.setMailbox _) <| .ite (h.setMailbox _) <|
  .ite (h.setMailbox _) <| .ite (h.writeTrw v) <| .ite (h.writeWindowLimit v) <|
  .ite (h.writeSpaceAny v) <| .ite (h.writeSpaceGroup v) <| .ite (h.writeTrialTimeout v) <|
  .ite (h.writeFreshTime v) <| .ite (h.writeBudgetByte _ v) <| .ite (h.writePatternByte _ v) <|
  .ite (h.writePortByte _ v) <| .ite (h.setMailbox _) h

/-! ### Timers, training and transmission -/

theorem expireFreshness (p : PortId) : s.KeepsStore (t.expireFreshness p) := by
  unfold State.expireFreshness
  split
  · exact h
  · exact (((h.reach _).loseTemp p false).abandonPort p true).decide

theorem expireAge (i : SlotId) : s.KeepsStore (t.expireAge i) := by
  unfold State.expireAge
  split
  · rename_i r hr
    have aged := (h.reach (r.ageSince + ms Config.minuteMs)).record (q := r.aged) hr rfl rfl rfl id
    simp only
    split_ifs
    · exact aged
    · exact aged.setCondition i .stale
  · exact h
  · exact h

theorem placeDirective (e : EngineId) (c : Ctx) (resend : Bool) :
    s.KeepsStore (t.placeDirective e c resend) := h.frame rfl rfl rfl

theorem expireTrial (e : EngineId) : s.KeepsStore (t.expireTrial e) := by
  unfold State.expireTrial
  split
  · exact h
  · split
    · exact h
    · simp only
      split_ifs
      · exact (h.reach _).setCtx e _
      · exact (h.reach _).placeDirective e _ true

theorem departStart : s.KeepsStore t.departStart := by
  unfold State.departStart
  split
  · exact h
  · exact h.frame rfl rfl rfl

theorem expireSpaceAny : s.KeepsStore t.expireSpaceAny := by
  unfold State.expireSpaceAny
  split
  · exact h
  · exact h.frame rfl rfl rfl

theorem expireSpaceGroup (g : GroupId) : s.KeepsStore (t.expireSpaceGroup g) := by
  unfold State.expireSpaceGroup
  split
  · exact h
  · exact h.frame rfl rfl rfl

theorem enqueueAuto (k : Key) : s.KeepsStore (t.enqueueAuto k) := by
  rw [State.enqueueAuto_eq]
  exact h.frame rfl rfl rfl

theorem takeAutoRequest : s.KeepsStore t.takeAutoRequest := by
  unfold State.takeAutoRequest
  split
  · exact h
  · simp only
    split_ifs
    · exact h.withAutoReqs _
    · exact (h.withAutoReqs _).enqueueAuto _

theorem takeTest (e : EngineId) : s.KeepsStore (t.takeTest e) := by
  unfold State.takeTest State.onMoved
  split
  · exact h
  · simp only
    split
    · exact h.modEngine e _
    · split_ifs
      · exact (h.modEngine e _).abandon e _ true 1
      · exact h.modEngine e _
      · exact (h.modEngine e _).setCtx e _
      · exact h.modEngine e _

theorem startJob (e : EngineId) (j : Job) (v : Int) : s.KeepsStore (t.startJob e j v) :=
  h.frame rfl rfl rfl

theorem decideStart : s.KeepsStore t.decideStart := by
  have begun : s.KeepsStore { t with decision := false } := h.frame rfl rfl rfl
  unfold State.decideStart
  split_ifs
  · simp only
    split
    · split_ifs
      · exact begun.startJob _ _ _
      · exact begun
    · exact begun
  · exact h

theorem rescan : s.KeepsStore t.rescan := by
  unfold State.rescan
  split
  · exact h
  · rw [State.rescanWalk_eq]
    exact h.frame rfl rfl rfl

theorem reserve (e : EngineId) (c : Ctx) : s.KeepsStore (t.reserve e c) := by
  unfold State.reserve State.announce State.endStoreFull
  simp only
  split
  · exact h.placeDirective e _ false
  · exact h
  · rename_i hk
    split
    · rename_i i u ha
      obtain ⟨heq, hi, hn, hkeep, _⟩ := State.allocate_spec ha
      have hp : u.profile c.job.key = t.profile c.job.key := by rw [heq]; rfl
      have reserved : s.KeepsStore (u.reserveSlot i c.job.key) := (h.trans hkeep).trans
        (State.keepsStore_takeReserved hi (hp ▸ hn) (State.slotOf_allocate ha hk))
      exact reserved.placeDirective e _ false
    · exact ((h.raise _).endJob e _ _ _).raise _

theorem commit (e : EngineId) (c : Ctx) : s.KeepsStore (t.commit e c) := by
  unfold State.commit
  simp only
  split
  · exact h
  · rename_i i hk
    have hkey := State.key_of_slotOf hk
    split
    · exact h
    · rename_i k n hx
      have created : t.KeepsStore (t.advanceStamp.setSlot i
          (.occupied (c.newRecord t.advanceStamp.stamp t.now n))) :=
        State.keepsStore_stamped hkey.symm (by rw [hx]; rfl) (by rintro _ ⟨⟩; rfl) (by
          rintro _ _ ⟨⟩
          simp [Record.GenInRange, Ctx.newRecord, Config.genMax])
      exact (h.trans created).endJob e _ _ _
    · rename_i r hx
      have rewritten := h.record (q := c.rewrite r t.now) hx rfl rfl rfl Record.genInRange_advance
      exact rewritten.endJob e _ _ _

theorem endFailed (e : EngineId) (c : Ctx) (o : JobOutcome) : s.KeepsStore (t.endFailed e c o) :=
  ((h.setHoldOff c.job.key).endJob e c.job.key o none).raise _

theorem onRequest (e : EngineId) {f : Ctx → StoreRequest → State}
    (hf : ∀ c q, s.KeepsStore (f c q)) : s.KeepsStore (t.onRequest e f) := by
  rcases t.onRequest_cases e f with he | ⟨c, q, _, _, he⟩
  · rwa [he]
  · exact he ▸ hf c q

theorem reportSent (e : EngineId) (id : Byte) : s.KeepsStore (t.reportSent e id) := by
  unfold State.reportSent
  split
  · exact h
  · simp only
    split_ifs
    · exact h
    · exact h.setCtx e _
    · exact h.proceed e _

theorem frameSent (p : PortId) : s.KeepsStore (t.frameSent p) := by
  unfold State.frameSent
  simp only
  split
  · exact h
  · split
    · exact (h.modPort p _).reportSent _ _
    · exact h.modPort p _

end State.KeepsStore

/-- Every command keeps the store's books. -/
theorem exec_keepsStore (i : Instr) (s t : State) (hex : exec i s = .next t) : s.KeepsStore t := by
  have h := KeepsStore.refl s
  cases i <;> obtain rfl := Host.Outcome.next.inj hex
  case hardwareReset => exact KeepsStore.hardReset
  case softReset => exact KeepsStore.softReset _
  case alertEnableWrite => exact h.settle.frame rfl rfl rfl
  case eventsWrite => exact h.settle.frame rfl rfl rfl
  case eventEnWrite => exact h.settle.frame rfl rfl rfl
  case registerWrite => exact h.settle.writeByte _ _
  case trwWrite => exact h.settle.writeTrw _
  case windowLimitWrite => exact h.settle.writeWindowLimit _
  case spaceAnyWrite => exact h.settle.writeSpaceAny _
  case spaceGroupWrite => exact h.settle.writeSpaceGroup _
  case trialTimeoutWrite => exact h.settle.writeTrialTimeout _
  case freshTimeWrite => exact h.settle.writeFreshTime _
  case driftBudgetWrite => exact h.settle.writeDriftBudget _ _
  case ageLimitWrite => exact h.settle.writeAgeLimit _ _
  case trimLimitWrite => exact h.settle.writeTrimLimit _ _
  case errorPolicyWrite => exact h.settle.modPort _ _
  case autotrainWrite => exact h.settle.writeAutotrain _ _
  case patternWordWrite => exact h.settle.frame rfl rfl rfl
  case commandStart => exact h.settle.startCommand _
  case readRecord => exact h.onGrantKey _ fun _ c k hu => hu.carryReadRecord c k
  case preloadRecord => exact h.onGrantKey _ fun _ c k hu => hu.carryPreload c k
  case retireRecord => exact h.onGrantKey _ fun _ c k hu => hu.carryRetireRecord c k
  case pin => exact h.onGrantKey _ fun _ _ k hu => hu.carryPin k true
  case unpin => exact h.onGrantKey _ fun _ _ k hu => hu.carryPin k false
  case queueTraining => exact h.onGrantKey _ fun _ c k hu => hu.carryQueueTraining c k
  case cancelTraining => exact h.onCommand _ h.carryCancelTraining
  case enablePort => exact h.onCommand _ h.carryEnablePort
  case disablePort => exact h.onCommand _ h.carryDisablePort
  case clearHold => exact h.onCommand _ h.carryClearHold
  case setProfile => exact h.onGrantKey _ fun _ c k hu => hu.carrySetProfile c k
  case getProfile => exact h.onCommand _ h.carryGetProfile
  case listRecords =>
    rcases s.onGrant_cases 0x0D State.carryListRecords with e | ⟨c, _, e⟩
    · rwa [e]
    · exact e ▸ (h.granted _).endWithBuffer _
  case listQueue => exact h.onCommand _ fun _ => h.endWithBuffer _
  case hello => exact h.takeFrame _ _ _ fun _ _ hu => hu.takeHello _ _ _
  case temp => exact h.takeFrame _ _ _ fun _ _ hu => hu.takeTemp _ _
  case autoRequest => exact h.takeAutoRequest
  case lookup => exact h.takeFrame _ _ _ fun _ _ hu => hu.takeRequest _ _ _
  case applied => exact h.takeFrame _ _ _ fun _ _ hu => hu.takeRequest _ _ _
  case trim => exact h.takeFrame _ _ _ fun _ _ hu => hu.takeRequest _ _ _
  case train => exact h.takeFrame _ _ _ fun _ _ hu => hu.takeRequest _ _ _
  case retire => exact h.takeFrame _ _ _ fun _ _ hu => hu.takeRequest _ _ _
  case park => exact h.takeFrame _ _ _ fun _ _ hu => hu.takeRequest _ _ _
  case wake => exact h.takeFrame _ _ _ fun _ _ hu => hu.takeWake _ _
  case resync => exact h.takeResync _ _ _
  case ready => exact h.takeFrame _ _ _ fun _ _ hu => hu.takeReady _ _
  case result =>
    refine h.takeFrame _ _ _ fun u a hu => ?_
    cases a with
    | some x => exact hu.takeResult _ _ _
    | none => exact hu
  case badFrame => split_ifs <;> [exact h.takeBad _; exact h]
  case lookupService => exact h.serve _ _ fun _ _ _ hu => hu.ifEnabled _ _ (hu.serveLookup _ _)
  case appliedService => exact h.serve _ _ fun _ _ _ hu => hu.ifEnabled _ _ (hu.serveApplied _ _ _)
  case trimService => exact h.serve _ _ fun _ _ _ hu => hu.ifEnabled _ _ (hu.serveTrim _ _ _ _)
  case retireService => exact h.serve _ _ fun _ _ _ hu => hu.ifEnabled _ _ (hu.serveRetire _ _)
  case trainService => exact h.serve _ _ fun _ _ _ hu => hu.ifEnabled _ _ (hu.serveTrain _ _ _)
  case parkService => exact h.serve _ _ fun _ _ _ hu => hu.servePark _ _
  case frameSent => exact h.frameSent _
  case deferredFramePlacement => exact h.modPort _ _
  case freshnessExpiry => exact h.expireFreshness _
  case ageTimerExpiry => exact h.expireAge _
  case trialTimerExpiry => exact h.expireTrial _
  case temperatureMovementTest => exact h.takeTest _
  case startListDeparture => exact h.departStart
  case spaceAnyExpiry => exact h.expireSpaceAny
  case spaceGroupExpiry => exact h.expireSpaceGroup _
  case startDecision => exact h.decideStart
  case rescan => exact h.rescan
  case reservation => exact h.onRequest _ fun c q => by split_ifs <;> [exact h.reserve _ c; exact h]
  case commit => exact h.onRequest _ fun c q => by split_ifs <;> [exact h.commit _ c; exact h]
  case noEye => exact h.onRequest _ fun c q => by split_ifs <;> [exact h.endFailed _ c _; exact h]
  case failureOperation =>
    refine h.onRequest _ fun c q => ?_
    cases q with
    | failure o => exact h.endFailed _ c o
    | reserve => exact h
    | commit => exact h
    | noEye => exact h
  case unknownKindFrame => split_ifs <;> [exact h; exact h.takeFrame _ _ _ fun _ _ hu => hu]
  case startByteReceived => split_ifs <;> [exact h.modPort _ _; exact h]

/-- Settles O57: each command keeps each of the four books. -/
theorem stepsKeepStore : Obligations.StepsKeepStore := by
  intro s s' hstep
  have kept : s.KeepsStore s' := by
    rcases step_cases hstep with rfl | ⟨c, rest, _, hex⟩
    · exact .of_eq rfl rfl rfl
    · have popped : s.KeepsStore { s with pending := rest } := .of_eq rfl rfl rfl
      exact popped.trans (exec_keepsStore c _ s' hex)
  exact ⟨kept.pool, kept.keys, kept.stamps, kept.gens⟩

end Sys2Proof.Machine
end

section
/-! PROOF. The training queue with the running jobs (R103, R111): what each change of them keeps. -/

namespace Sys2Proof.Machine

/-! ### URGENT jobs first (R103) -/

/-- URGENT jobs stand before ROUTINE ones. -/
def UrgentFirst (q : List Job) : Prop := q.Pairwise fun a b => b.isUrgent = true → a.isUrgent = true

theorem urgentFirst_filters (q : List Job) :
    UrgentFirst (q.filter Job.isUrgent ++ q.filter fun j => !j.isUrgent) := by
  refine List.pairwise_append.mpr ⟨?_, ?_, fun a ha b _ _ => (List.mem_filter.mp ha).2⟩
  · exact List.Pairwise.imp_of_mem (fun ha _ _ _ => (List.mem_filter.mp ha).2)
      (List.pairwise_of_forall fun _ _ => trivial)
  · refine List.Pairwise.imp_of_mem (R := fun _ _ => True) (fun _ hb _ hu => ?_)
      (List.pairwise_of_forall fun _ _ => trivial)
    simpa [hu] using (List.mem_filter.mp hb).2

theorem urgentFirst_iff {q : List Job} :
    q.filter Job.isUrgent ++ q.filter (fun j => !j.isUrgent) = q ↔ UrgentFirst q := by
  constructor
  · intro h
    rw [← h]
    exact urgentFirst_filters q
  · intro h
    induction q with
    | nil => rfl
    | cons j q ih =>
      obtain ⟨hj, hq⟩ := List.pairwise_cons.mp h
      by_cases hu : j.isUrgent = true
      · simpa [hu] using ih hq
      · have none : q.filter Job.isUrgent = [] :=
          List.filter_eq_nil_iff.mpr fun b hb hbu => hu (hj b hb hbu)
        have := ih hq
        rw [none, List.nil_append] at this
        simp [hu, none, this]

/-- The two groups of a queue are its jobs. -/
theorem groups_perm (q : List Job) :
    (q.filter Job.isUrgent ++ q.filter fun j => !j.isUrgent).Perm q := List.filter_append_perm _ q

theorem joinTail_perm (j : Job) (q : List Job) : (joinTail j q).Perm (j :: q) := by
  rw [joinTail]
  split_ifs
  · exact List.perm_middle.trans ((groups_perm q).cons j)
  · exact (List.perm_append_singleton j _).trans ((groups_perm q).cons j)

theorem joinFront_perm (j : Job) (q : List Job) : (joinFront j q).Perm (j :: q) := by
  rw [joinFront]
  split_ifs
  · exact (groups_perm q).cons j
  · exact List.perm_middle.trans ((groups_perm q).cons j)

theorem urgentFirst_joinTail (j : Job) (q : List Job) : UrgentFirst (joinTail j q) := by
  rw [← urgentFirst_iff, joinTail]
  split_ifs with h <;> simp [h, List.filter_filter]

theorem urgentFirst_joinFront (j : Job) (q : List Job) : UrgentFirst (joinFront j q) := by
  rw [← urgentFirst_iff, joinFront]
  split_ifs with h <;> simp [h, List.filter_filter]

/-! ### A sound queue, as lists -/

/-- What R103 and R111 say of the queued jobs `q` and the running jobs `r`. -/
structure SoundQueue (q r : List Job) : Prop where
  room : q.length + r.length ≤ Config.queueEntries
  keys : ((q ++ r).map Job.key).Nodup
  portsApart : (r.map fun j => j.key.port).Nodup
  urgent : UrgentFirst q

theorem State.queueSound_iff (s : State) : s.QueueSound ↔ SoundQueue s.queued s.running := by
  rw [State.QueueSound, State.entriesHeld_eq, urgentFirst_iff]
  exact ⟨fun ⟨a, b, c, d⟩ => ⟨a, b, c, d⟩, fun ⟨a, b, c, d⟩ => ⟨a, b, c, d⟩⟩

namespace SoundQueue
variable {q q' r r' : List Job} {j : Job}

theorem perm_running (h : SoundQueue q r) (hr : r.Perm r') : SoundQueue q r' where
  room := hr.length_eq ▸ h.room
  keys := (((hr.append_left q).map Job.key).nodup_iff).mp h.keys
  portsApart := ((hr.map _).nodup_iff).mp h.portsApart
  urgent := h.urgent

/-- Jobs leave the queue. -/
theorem sublist (h : SoundQueue q r) (hq : q'.Sublist q) : SoundQueue q' r where
  room := (Nat.add_le_add_right hq.length_le _).trans h.room
  keys := ((hq.append_right r).map Job.key).nodup h.keys
  portsApart := h.portsApart
  urgent := List.Pairwise.sublist hq h.urgent

/-- A running job leaves. -/
theorem ended (h : SoundQueue q (j :: r)) : SoundQueue q r where
  room := by
    have := h.room
    simp only [List.length_cons] at this
    omega
  keys := (((List.sublist_cons_self j r).append_left q).map Job.key).nodup h.keys
  portsApart := (List.nodup_cons.mp h.portsApart).2
  urgent := h.urgent

/-- The other jobs have other keys than the one running. -/
theorem key_ne (h : SoundQueue q (j :: r)) : ∀ x ∈ q ++ r, x.key ≠ j.key := by
  have hp : (q ++ j :: r).Perm (j :: (q ++ r)) := List.perm_middle
  have hd := ((hp.map Job.key).nodup_iff).mp h.keys
  intro x hx he
  exact (List.nodup_cons.mp hd).1 (he ▸ List.mem_map_of_mem hx)

/-- A running job is put back at the front of its urgency group (R107). -/
theorem requeued (h : SoundQueue q (j :: r)) (attempts : Nat) :
    SoundQueue (joinFront { j with attempts := attempts } q) r where
  room := by
    have := h.room
    rw [(joinFront_perm _ q).length_eq]
    simp only [List.length_cons] at this ⊢
    omega
  keys := by
    have hp : (joinFront { j with attempts := attempts } q ++ r).map Job.key |>.Perm
        ((q ++ j :: r).map Job.key) := by
      have h1 := ((joinFront_perm { j with attempts := attempts } q).append_right r).map Job.key
      have h2 : ((q ++ j :: r).map Job.key).Perm ((j :: (q ++ r)).map Job.key) :=
        List.perm_middle.map Job.key
      exact h1.trans h2.symm
    exact hp.nodup_iff.mpr h.keys
  portsApart := (List.nodup_cons.mp h.portsApart).2
  urgent := urgentFirst_joinFront _ q

/-- A new job joins the tail of its urgency group (R104). -/
theorem enqueued (h : SoundQueue q r) (hroom : q.length + r.length < Config.queueEntries)
    (hk : ∀ x ∈ q ++ r, x.key ≠ j.key) : SoundQueue (joinTail j q) r where
  room := by
    rw [(joinTail_perm j q).length_eq, List.length_cons]
    omega
  keys := by
    have hp := ((joinTail_perm j q).append_right r).map Job.key
    refine hp.nodup_iff.mpr (List.nodup_cons.mpr ⟨fun hm => ?_, h.keys⟩)
    obtain ⟨x, hx, he⟩ := List.mem_map.mp hm
    exact hk x hx he
  portsApart := h.portsApart
  urgent := urgentFirst_joinTail j q

/-- A QUEUED job takes a new origin in its place (R106). -/
theorem merged (h : SoundQueue q r) {f : Job → Job} (hk : ∀ x ∈ q, (f x).key = x.key)
    (hu : ∀ x ∈ q, (f x).urgency = x.urgency) : SoundQueue (q.map f) r where
  room := by simpa using h.room
  keys := by
    have : (q.map f).map Job.key = q.map Job.key := by
      rw [List.map_map]
      exact List.map_congr_left hk
    rw [List.map_append, this, ← List.map_append]
    exact h.keys
  portsApart := h.portsApart
  urgent := by
    refine List.pairwise_map.mpr (h.urgent.imp_of_mem fun {a b} ha hb hab => ?_)
    simpa only [Job.isUrgent, hu a ha, hu b hb] using hab

/-- Taking a key's job out of a queue with distinct keys. -/
theorem withoutKey_perm (h : SoundQueue q r) (hj : j ∈ q) : q.Perm (j :: withoutKey j.key q) := by
  have hd : (q.map Job.key).Nodup := by
    have := h.keys
    rw [List.map_append, List.nodup_append] at this
    exact this.1
  clear h
  induction q with
  | nil => simp at hj
  | cons a q ih =>
    obtain ⟨ha, hd⟩ := List.nodup_cons.mp hd
    by_cases hk : a.key = j.key
    · have hself : withoutKey j.key q = q := withoutKey_eq_self fun x hx he =>
        ha (List.mem_map.mpr ⟨x, hx, he.trans hk.symm⟩)
      have haj : a = j := by
        rcases List.mem_cons.mp hj with rfl | hj
        · rfl
        · exact absurd (List.mem_map.mpr ⟨j, hj, hk.symm⟩) ha
      have : withoutKey j.key (a :: q) = q := by
        rw [← hself]
        simp [withoutKey, hk]
      rw [this, haj]
    · have hj' : j ∈ q := (List.mem_cons.mp hj).resolve_left fun he => hk (he ▸ rfl)
      have : withoutKey j.key (a :: q) = a :: withoutKey j.key q := by simp [withoutKey, hk]
      rw [this]
      exact ((ih hj' hd).cons a).trans (.swap j a _)

/-- A QUEUED job is raised to URGENT (R106). -/
theorem raised (h : SoundQueue q r) (hj : j ∈ q) {j' : Job} (hk : j'.key = j.key) :
    SoundQueue (joinTail j' (withoutKey j.key q)) r := by
  have hp := h.withoutKey_perm hj
  have hd : SoundQueue (withoutKey j.key q) r := h.sublist List.filter_sublist
  have hroom := h.room
  rw [hp.length_eq, List.length_cons] at hroom
  refine hd.enqueued (by omega) fun x hx he => ?_
  have hkeys := (((hp.append_right r).map Job.key).nodup_iff).mp h.keys
  exact (List.nodup_cons.mp hkeys).1 (List.mem_map.mpr ⟨x, hx, he.trans hk⟩)

/-- A QUEUED job starts, on a port that has no running job (R111, R116). -/
theorem started (h : SoundQueue q r) (hj : j ∈ q) (hp : ∀ x ∈ r, x.key.port ≠ j.key.port) :
    SoundQueue (withoutKey j.key q) (j :: r) where
  room := by
    have := h.room
    rw [(h.withoutKey_perm hj).length_eq] at this
    simp only [List.length_cons] at this ⊢
    omega
  keys := by
    have h1 : (withoutKey j.key q ++ j :: r).Perm (j :: (withoutKey j.key q ++ r)) := List.perm_middle
    have h2 := (h.withoutKey_perm hj).append_right r
    exact ((h1.trans h2.symm).map Job.key).nodup_iff.mpr h.keys
  portsApart := List.nodup_cons.mpr ⟨fun hm => by
    obtain ⟨x, hx, he⟩ := List.mem_map.mp hm
    exact hp x hx he, h.portsApart⟩
  urgent := List.Pairwise.sublist List.filter_sublist h.urgent

end SoundQueue

/-! ### The running jobs after a change of an engine -/

theorem State.running_congr {s t : State}
    (h : ∀ e, (t.engine e).ctx.map Ctx.job = (s.engine e).ctx.map Ctx.job) :
    t.running = s.running := by rw [State.running_eq, State.running_eq, h, h]

/-- With its job gone from an engine, the other jobs run on. -/
theorem State.running_perm_of_idle {s t : State} {e : EngineId} {c : Ctx}
    (hc : (s.engine e).ctx = some c) (ht : (t.engine e).ctx = none)
    (ho : ∀ d, d ≠ e → (t.engine d).ctx = (s.engine d).ctx) :
    s.running.Perm (c.job :: t.running) := by
  rw [State.running_eq, State.running_eq]
  match e with
  | 0 =>
    rw [hc, ht, ho 1 (by decide)]
    exact .refl _
  | 1 =>
    rw [hc, ht, ho 0 (by decide)]
    rw [Option.map_none, Option.toList_none, List.append_nil]
    exact List.perm_append_singleton c.job _

/-- A key's job runs exactly where a running job has the key. -/
theorem State.hasJob_eq_false {s : State} {k : Key} :
    s.hasJob k = false ↔ ∀ j ∈ s.queued ++ s.running, j.key ≠ k := by
  rw [State.hasJob, Bool.or_eq_false_iff, Bool.eq_false_iff, Bool.eq_false_iff, ne_eq, ne_eq,
    State.jobQueued_iff, State.jobRunning_iff]
  simp only [List.mem_append]
  grind

/-- An enqueue keeps the queue sound (R104, R106). -/
theorem State.QueueSound.enqueue {s : State} (h : s.QueueSound) (k : Key) (o : JobOrigin)
    (u : Urgency) : (s.enqueue k o u).1.QueueSound := by
  rw [State.queueSound_iff] at h ⊢
  obtain ⟨q, he, hq⟩ := s.enqueue_cases k o u
  rw [he]
  change SoundQueue q s.running
  rcases hq with rfl | ⟨j, hj, rfl, rfl | rfl⟩ | ⟨hk, hroom, rfl⟩
  · exact h
  · exact h.raised hj rfl
  · have only : ∀ x ∈ s.queued, x.key = j.key → x = j := fun x hx hxk => by
      have hm := (h.withoutKey_perm hj).mem_iff.mp hx
      rcases List.mem_cons.mp hm with rfl | hm
      · rfl
      · simp [withoutKey, hxk] at hm
    refine h.merged (fun x hx => ?_) (fun x hx => ?_)
    · split_ifs with hxk
      · exact hxk.symm
      · rfl
    · split_ifs with hxk
      · rw [only x hx hxk]
      · rfl
  · exact h.enqueued (s.entriesHeld_eq ▸ hroom) (State.hasJob_eq_false.mp hk)

end Sys2Proof.Machine
end

section
/-! PROOF. What holds of one port, through each change of a port (R33, R50, R57, R67, R70, R72). -/

namespace Sys2Proof.Machine

namespace Port.Sound
variable {x : Port}

theorem online_of_fresh (h : x.Sound) (ht : x.temp ≠ .unknown) : x.state = .online := h.1 ht

theorem unknown_of_not_online (h : x.Sound) (hs : x.state ≠ .online) : x.temp = .unknown := by
  by_contra ht
  exact hs (h.1 ht)

theorem reqs_of_not_online (h : x.Sound) (hs : x.state ≠ .online) : x.reqs = [] := by
  obtain ⟨_, _, hreqs, _⟩ := h
  by_contra hr
  exact hs (hreqs hr)

/-- Other lists of frames, none in OFFLINE. -/
theorem lists (h : x.Sound) (pend : List OutEntry) (held : List HeldFrame)
    (ho : x.state = .offline → pend = [] ∧ held = []) :
    Port.Sound { x with pend := pend, heldBack := held } := by
  obtain ⟨h1, h2, h3, h4, h5, h6, h7, h8⟩ := h
  exact ⟨h1, h2, h3, h4, h5, h6,
    fun hs => ⟨(h7 hs).1, (h7 hs).2.1, (ho hs).1, (ho hs).2⟩, h8⟩

theorem offline_lists (h : x.Sound) (hs : x.state = .offline) :
    x.char = none ∧ x.tx = none ∧ x.pend = [] ∧ x.heldBack = [] := by
  obtain ⟨_, _, _, _, _, _, h7, _⟩ := h
  exact h7 hs

/-- A frame is placed on a port that is not OFFLINE. -/
theorem place (h : x.Sound) (e : OutEntry) (hs : x.state ≠ .offline) : (x.place e).Sound := by
  rw [Port.place_eq]
  exact h.lists _ _ fun ho => absurd ho hs

theorem removePending (h : x.Sound) (drop : OutFrame → Bool) : (x.removePending drop).Sound := by
  refine h.lists _ _ fun ho => ?_
  obtain ⟨_, _, hp, hh⟩ := h.offline_lists ho
  simp [hp, hh]

theorem placeNotice (h : x.Sound) (c : ClassId) (kind : NoticeKind) (gen : Nat)
    (hs : x.state ≠ .offline) : (x.placeNotice c kind gen).Sound :=
  (h.removePending _).place _ hs

theorem placeNak (h : x.Sound) (hs : x.state ≠ .offline) : x.placeNak.Sound := by
  unfold Port.placeNak
  split_ifs
  · exact h
  · exact h.place _ hs

theorem withdraw (h : x.Sound) : x.withdraw.Sound := by
  obtain ⟨h1, h2, h3, h4, h5, h6, h7, h8⟩ := h.removePending OutFrame.isDirective
  refine ⟨h1, h2, h3, h4, h5, h6, fun hs => ?_, fun ht => ?_⟩
  · obtain ⟨hc, ht, hp, hh⟩ := h7 hs
    exact ⟨hc, Option.map_eq_none_iff.mpr ht, hp, hh⟩
  · exact h8 (Option.map_eq_none_iff.mp ht)

/-- A pending frame begins transmission on an idle line (log 9). -/
theorem startTx (h : x.Sound) : x.startTx.Sound := by
  obtain ⟨h1, h2, h3, h4, h5, h6, h7, h8⟩ := h
  unfold Port.startTx
  split
  · rename_i hp
    refine ⟨h1, h2, h3, h4, h5, h6, fun hs => ?_, fun ht => by simp at ht⟩
    simp [(h7 hs).2.2.1] at hp
  · exact ⟨h1, h2, h3, h4, h5, h6, h7, h8⟩

theorem placeHeld (h : x.Sound) : x.placeHeld.Sound := by
  unfold Port.placeHeld
  split
  · exact h
  · split_ifs
    · refine h.lists _ _ fun ho => ?_
      have := (h.offline_lists ho).2.2.2
      simp_all
    · exact h

/-- The line at rest, with no bit of a frame sent. -/
theorem rested (h : x.Sound) (finishing : Option OutEntry) (held : List HeldFrame)
    (ho : x.state = .offline → held = []) :
    Port.Sound { x with tx := none, finishing := finishing, sent := 0, heldBack := held } := by
  obtain ⟨h1, h2, h3, h4, h5, h6, h7, _⟩ := h
  exact ⟨h1, h2, h3, h4, h5, h6, fun hs => ⟨(h7 hs).1, rfl, (h7 hs).2.2.1, ho hs⟩, fun _ _ => rfl⟩

theorem frameSent (h : x.Sound) : x.frameSent.Sound := by
  unfold Port.frameSent
  split_ifs
  · refine Port.Sound.startTx ?_
    obtain ⟨h1, h2, h3, h4, h5, h6, h7, _⟩ := h
    exact ⟨h1, h2, h3, h4, h5, h6, h7, fun _ _ => rfl⟩
  · simp only
    refine (h.startTx.rested x.startTx.finishing _ fun hs => ?_).startTx
    have hoff : x.state = .offline := by
      have : x.startTx.state = x.state := by
        unfold Port.startTx
        split <;> rfl
      exact this ▸ hs
    simp [(h.offline_lists hoff).2.2.2]

end Port.Sound

@[simp] theorem Port.startTx_state (x : Port) : x.startTx.state = x.state := by
  unfold Port.startTx
  split <;> rfl

@[simp] theorem Port.startTx_temp (x : Port) : x.startTx.temp = x.temp := by
  unfold Port.startTx
  split <;> rfl

@[simp] theorem Port.startTx_reqs (x : Port) : x.startTx.reqs = x.reqs := by
  unfold Port.startTx
  split <;> rfl

/-! ### Changes that leave a port where it is -/

/-- A change of a port that keeps its state and its temperature's presence, asks for nothing new, and
leaves it sound. -/
structure Port.Stays (x y : Port) : Prop where
  sound : x.Sound → y.Sound
  state : y.state = x.state
  temp : x.temp ≠ .unknown → y.temp ≠ .unknown
  reqs : ∀ r ∈ y.reqs, r ∈ x.reqs

namespace Port.Stays
variable {x y z : Port}

theorem refl (x : Port) : x.Stays x := ⟨id, rfl, id, fun _ => id⟩

theorem trans (h : x.Stays y) (h' : y.Stays z) : x.Stays z :=
  ⟨h'.sound ∘ h.sound, h'.state.trans h.state, h'.temp ∘ h.temp, fun r hr => h.reqs r (h'.reqs r hr)⟩

theorem place (e : OutEntry) (hs : x.state ≠ .offline) : x.Stays (x.place e) :=
  ⟨fun h => h.place e hs, by simp, by simp, by simp⟩

theorem removePending (drop : OutFrame → Bool) : x.Stays (x.removePending drop) :=
  ⟨fun h => h.removePending drop, rfl, id, fun _ => id⟩

theorem placeNotice (c : ClassId) (kind : NoticeKind) (gen : Nat) (hs : x.state ≠ .offline) :
    x.Stays (x.placeNotice c kind gen) := (removePending _).trans (place _ hs)

theorem placeNak (hs : x.state ≠ .offline) : x.Stays x.placeNak := by
  unfold Port.placeNak
  split_ifs
  · exact .refl x
  · exact place _ hs

theorem withdraw : x.Stays x.withdraw := ⟨fun h => h.withdraw, rfl, id, fun _ => id⟩

theorem startTx : x.Stays x.startTx := ⟨fun h => h.startTx, by simp, by simp, by simp⟩

theorem placeHeld : x.Stays x.placeHeld := by
  refine ⟨fun h => h.placeHeld, ?_, ?_, ?_⟩ <;> unfold Port.placeHeld <;> split
  · rfl
  · split_ifs <;> rfl
  · exact id
  · split_ifs <;> exact id
  · exact fun _ => id
  · split_ifs <;> exact fun _ => id

theorem frameSent : x.Stays x.frameSent := by
  refine ⟨fun h => h.frameSent, ?_, ?_, ?_⟩ <;> unfold Port.frameSent <;> split_ifs <;> simp

/-- A good frame taken, in a state other than OFFLINE (R51, R67). -/
theorem framed (hs : x.state ≠ .offline) : x.Stays { x with rx := .hunting, bad := 0 } := by
  refine ⟨fun ⟨h1, h2, h3, _, _, _, h7, h8⟩ => ?_, rfl, id, fun _ => id⟩
  exact ⟨h1, h2, h3, Nat.zero_le _, fun _ => rfl, by simp [hs], h7, h8⟩

/-- The receiver goes on, in a state other than OFFLINE (R51). -/
theorem receives (hs : x.state ≠ .offline) {rx : Rx} (hr : rx ≠ .stopped) :
    x.Stays { x with rx := rx } := by
  refine ⟨fun ⟨h1, h2, h3, h4, h5, _, h7, h8⟩ => ?_, rfl, id, fun _ => id⟩
  exact ⟨h1, h2, h3, h4, h5, by simp [hs, hr], h7, h8⟩

/-- Fields that none of this speaks of. -/
theorem settings (policy : Policy) (autotrain : Bool) (last : Option (JobOutcome × ClassId)) :
    x.Stays { x with policy := policy, autotrain := autotrain, lastOutcome := last } :=
  ⟨id, rfl, id, fun _ => id⟩

/-- The head of the request queue is taken (R80). -/
theorem tail : x.Stays { x with reqs := x.reqs.tail } := by
  refine ⟨fun ⟨h1, h2, h3, h4⟩ => ⟨h1, ?_, fun hr => h3 fun he => hr ?_, h4⟩, rfl, id,
    fun r => List.mem_of_mem_tail⟩
  · simp only [List.length_tail]
    omega
  · simp [he]

end Port.Stays

end Sys2Proof.Machine
end

section
/-! PROOF. Records, reservations, jobs and profiles fitted together (O60): the joined property, with
one port allowed to be on its way out of ONLINE, and what each change of State keeps of it. -/

namespace Sys2Proof.Machine

/-! ### The joined property by parts -/

/-- A slot has its profile's lane count, and its record as many lanes, with reference fields exactly
when the profile enables them (R5). -/
def State.SlotFits (s : State) (x : Slot) : Prop :=
  (∀ k, x.key? = some k → x.lanes = (s.profile k).laneCount ∧ s.classEnabled k = true) ∧
  ∀ r, x = .occupied r →
    r.lanes.length = r.laneCount ∧ lanesMatch (s.profile r.key).refEnable r.lanes = true

/-- A TRIM for an enabled class has one delta for each lane (R54). -/
def State.RequestFits (s : State) (p : PortId) : ReqBody → Prop
  | .trim c _ deltas =>
    s.classEnabled ⟨p, c⟩ = true → deltas.length = (s.profile ⟨p, c⟩).laneCount
  | .lookup _ | .applied _ _ | .train _ _ | .retire _ | .park => True

/-- The keys that jobs, AUTO requests and a started QUEUE_TRAINING name (R105). -/
def State.Names (s : State) (k : Key) : Prop :=
  (∃ j ∈ s.queued ++ s.running, j.key = k) ∨ k ∈ s.autoReqs ∨
    ∃ c, s.mb.copy = some c ∧ c.code = 0x06 ∧ c.key = some k

/-- A job of key `k` is running. -/
def State.Runs (s : State) (k : Key) : Prop := ∃ e c, (s.engine e).ctx = some c ∧ c.job.key = k

/-- The parts of the joined property, where port `away` may have left ONLINE before its jobs are gone. -/
structure State.Fits (away : Option PortId) (s : State) : Prop where
  one : s.OneSlotPerKey
  queue : SoundQueue s.queued s.running
  ports : ∀ p, (s.port p).Sound
  runners : ∀ e c, (s.engine e).ctx = some c → away ≠ some c.job.key.port →
    (s.port c.job.key.port).state = .online ∧ (s.port c.job.key.port).temp ≠ .unknown
  slots : ∀ i, s.SlotFits (s.slot i)
  owned : ∀ i k n, s.slot i = .reserved k n → s.Runs k
  copies : ∀ e c, (s.engine e).ctx = some c → c.profile = s.profile c.job.key
  requests : ∀ p, ∀ r ∈ (s.port p).reqs, s.RequestFits p r.body
  names : ∀ k, s.Names k → s.classEnabled k = true ∧
    (away ≠ some k.port → (s.port k.port).state ≠ .offline)

theorem State.runs_iff {s : State} {k : Key} : s.Runs k ↔ k ∈ s.running.map Job.key := by
  simp only [State.Runs, List.mem_map, State.mem_running]
  constructor
  · rintro ⟨e, c, hc, hk⟩
    exact ⟨_, ⟨e, c, hc, rfl⟩, hk⟩
  · rintro ⟨_, ⟨e, c, hc, rfl⟩, hk⟩
    exact ⟨e, c, hc, hk⟩

theorem State.recordsShaped_iff {s : State} : s.RecordsShaped ↔ ∀ i, s.SlotFits (s.slot i) := by
  have occupied : ∀ x r, x.record? = some r ↔ x = Slot.occupied r := fun _ _ => Slot.mem_record?
  simp only [State.RecordsShaped, State.SlotFits, Option.mem_def, occupied]
  exact forall_and.symm

theorem State.trimsShaped_iff {s : State} :
    s.TrimsShaped ↔ ∀ p, ∀ r ∈ (s.port p).reqs, s.RequestFits p r.body := by
  refine forall_congr' fun p => forall_congr' fun r => imp_congr_right fun _ => ?_
  cases r.body <;> rfl

theorem State.trainable_iff {s : State} {k : Key} : s.trainable k = true ↔
    s.classEnabled k = true ∧ (s.port k.port).state ≠ .offline := by
  simp [State.trainable]

theorem State.jobsTrainable_iff {s : State} :
    s.JobsTrainable ↔ ∀ k, s.Names k → s.trainable k = true := by
  constructor
  · rintro ⟨hj, ha, hm⟩ k (⟨j, hmem, rfl⟩ | hk | ⟨c, hc, h6, hk⟩)
    · exact hj j hmem
    · exact ha k hk
    · exact hm c hc h6 k hk
  · intro h
    exact ⟨fun j hj => h _ (.inl ⟨j, hj, rfl⟩), fun k hk => h _ (.inr (.inl hk)),
      fun c hc h6 k hk => h _ (.inr (.inr ⟨c, hc, h6, hk⟩))⟩

theorem State.reservationsOwned_iff {s : State} :
    s.ReservationsOwned ↔ ∀ i k n, s.slot i = .reserved k n → s.Runs k := by
  simp only [State.ReservationsOwned, State.runs_iff]
  refine forall_congr' fun i => ?_
  cases s.slot i <;> simp [Slot.key?, Slot.record?]

theorem State.joined_iff {s : State} : s.Joined ↔ s.Fits none := by
  rw [State.Joined, State.queueSound_iff, State.recordsShaped_iff, State.trimsShaped_iff,
    State.jobsTrainable_iff, State.reservationsOwned_iff]
  simp only [State.trainable_iff]
  constructor
  · rintro ⟨one, queue, ports, runners, slots, owned, copies, requests, names⟩
    exact ⟨one, queue, ports, fun e c hc _ => runners e c hc, slots, owned, fun e c hc => copies e c hc,
      requests, fun k hk => ⟨(names k hk).1, fun _ => (names k hk).2⟩⟩
  · rintro ⟨one, queue, ports, runners, slots, owned, copies, requests, names⟩
    exact ⟨one, queue, ports, fun e c hc => runners e c hc nofun, slots, owned,
      fun e c hc => copies e c hc, requests, fun k hk => ⟨(names k hk).1, (names k hk).2 nofun⟩⟩

/-! ### Changes of one table -/

theorem State.classEnabled_congr {s t : State} (h : t.profiles = s.profiles) :
    t.profile = s.profile ∧ t.classEnabled = s.classEnabled := by
  have hp : t.profile = s.profile := by simp only [funext_iff, State.profile, h, implies_true]
  exact ⟨hp, by simp only [funext_iff, State.classEnabled, hp, implies_true]⟩

theorem State.slotFits_congr {s t : State} (h : t.profiles = s.profiles) :
    t.SlotFits = s.SlotFits := by
  obtain ⟨hp, hc⟩ := State.classEnabled_congr h
  simp only [funext_iff, State.SlotFits, hp, hc, implies_true]

theorem State.requestFits_congr {s t : State} (h : t.profiles = s.profiles) :
    t.RequestFits = s.RequestFits := by
  obtain ⟨hp, hc⟩ := State.classEnabled_congr h
  funext p b
  cases b <;> simp only [State.RequestFits, hp, hc]

/-- A slot that is given back, or whose record keeps key, lane count and the shape of its lanes. -/
inductive Slot.Refit : Slot → Slot → Prop
  | same (x : Slot) : Slot.Refit x x
  | freed (x : Slot) : Slot.Refit x .free
  | record {r q : Record} : q.key = r.key → q.laneCount = r.laneCount →
      q.lanes.map (fun l => l.ref.isSome) = r.lanes.map (fun l => l.ref.isSome) →
      Slot.Refit (.occupied r) (.occupied q)

theorem Slot.Refit.key? {x y : Slot} (h : x.Refit y) {k : Key} (hk : y.key? = some k) :
    x.key? = some k := by
  cases h with
  | same => exact hk
  | freed => simp [Slot.key?] at hk
  | record he _ _ => rwa [Slot.key?, he] at hk

theorem Slot.refit_mapRecord {f : Record → Record} (hk : ∀ r, (f r).key = r.key)
    (hl : ∀ r, (f r).laneCount = r.laneCount) (hs : ∀ r, (f r).lanes = r.lanes) (x : Slot) :
    x.Refit (x.mapRecord f) := by
  cases x with
  | free => exact .same _
  | reserved k n => exact .same _
  | occupied r => exact .record (hk r) (hl r) (by rw [hs])

theorem lanesMatch_congr {ref : Bool} {a b : List LaneEntry}
    (h : a.map (fun l => l.ref.isSome) = b.map fun l => l.ref.isSome) :
    lanesMatch ref a = lanesMatch ref b := by
  have via : ∀ l : List LaneEntry, lanesMatch ref l =
      (l.map fun x => x.ref.isSome).all fun x => x == ref := fun l => by
    rw [lanesMatch, List.all_map]
    rfl
  rw [via, via, h]

theorem State.SlotFits.refit {s : State} {x y : Slot} (h : s.SlotFits x) (hr : x.Refit y) :
    s.SlotFits y := by
  cases hr with
  | same => exact h
  | freed => exact ⟨fun k hk => by simp [Slot.key?] at hk, nofun⟩
  | @record r q hk hl hs =>
    obtain ⟨h1, h2⟩ := h
    obtain ⟨hlen, hm⟩ := h2 r rfl
    refine ⟨fun k hkey => ?_, ?_⟩
    · have := h1 k (by rwa [Slot.key?, hk] at hkey)
      rwa [Slot.lanes, hl]
    · rintro _ ⟨⟩
      refine ⟨?_, ?_⟩
      · rw [hl, ← hlen, ← List.length_map (f := fun l : LaneEntry => l.ref.isSome), hs,
          List.length_map]
      · rw [hk, lanesMatch_congr hs, hm]

namespace State.Fits
variable {away : Option PortId} {s t : State}

/-- A change of fields that the joined property does not speak of. -/
theorem frame (h : s.Fits away) (hports : t.ports = s.ports) (hslots : t.slots = s.slots)
    (hqueued : t.queued = s.queued) (hengines : t.engines = s.engines)
    (hprofiles : t.profiles = s.profiles) (hauto : t.autoReqs = s.autoReqs)
    (hcopy : t.mb.copy = s.mb.copy) : t.Fits away := by
  have hp : t.port = s.port := by simp only [funext_iff, State.port, hports, implies_true]
  have hs : t.slot = s.slot := by simp only [funext_iff, State.slot, hslots, implies_true]
  have he : t.engine = s.engine := by simp only [funext_iff, State.engine, hengines, implies_true]
  have hr : t.running = s.running := by simp only [State.running, hengines]
  obtain ⟨hpr, hcl⟩ := State.classEnabled_congr hprofiles
  constructor
  · simpa only [State.OneSlotPerKey, hs] using h.one
  · simpa only [hqueued, hr] using h.queue
  · simpa only [hp] using h.ports
  · simpa only [hp, he] using h.runners
  · simpa only [State.slotFits_congr hprofiles, hs] using h.slots
  · simpa only [State.Runs, hs, he] using h.owned
  · simpa only [hpr, he] using h.copies
  · simpa only [State.requestFits_congr hprofiles, hp] using h.requests
  · simpa only [State.Names, hqueued, hr, hauto, hcopy, hcl, hp] using h.names

/-- One port replaced. -/
theorem setPort (h : s.Fits away) (p : PortId) {y : Port} (hy : y.Sound)
    (hreqs : ∀ r ∈ y.reqs, s.RequestFits p r.body)
    (hoff : away = some p ∨ ((s.port p).state ≠ .offline → y.state ≠ .offline))
    (hrun : away = some p ∨ ∀ e c, (s.engine e).ctx = some c → c.job.key.port = p →
      y.state = .online ∧ y.temp ≠ .unknown) :
    State.Fits away { s with ports := s.ports.set p y } := by
  have hport : ∀ q, State.port { s with ports := s.ports.set p y } q =
      if p = q then y else s.port q := fun q => Table.get_set _ _ _ _
  refine ⟨h.one, h.queue, fun q => ?_, fun e c hc ha => ?_, h.slots, h.owned, h.copies,
    fun q r hr => ?_, fun k hk => ⟨(h.names k hk).1, fun ha => ?_⟩⟩
  · rw [hport]
    split_ifs
    · exact hy
    · exact h.ports q
  · rw [hport]
    split_ifs with hp
    · exact hrun.resolve_left (hp ▸ ha) e c hc hp.symm
    · exact h.runners e c hc ha
  · rw [hport] at hr
    split_ifs at hr with hp
    · exact hp ▸ hreqs r hr
    · exact h.requests q r hr
  · rw [hport]
    split_ifs with hp
    · exact hoff.resolve_left (hp ▸ ha) (hp ▸ (h.names k hk).2 ha)
    · exact (h.names k hk).2 ha

/-- A port changed where it is. -/
theorem stays (h : s.Fits away) (p : PortId) {f : Port → Port}
    (hf : (s.port p).Stays (f (s.port p))) : (s.modPort p f).Fits away := by
  refine h.setPort p (hf.sound (h.ports p)) (fun r hr => h.requests p r (hf.reqs r hr))
    (.inr fun ho => hf.state ▸ ho) ?_
  by_cases ha : away = some p
  · exact .inl ha
  · refine .inr fun e c hc hp => ?_
    obtain ⟨h1, h2⟩ := h.runners e c hc (hp ▸ ha)
    rw [hp] at h1 h2
    exact ⟨hf.state.trans h1, hf.temp h2⟩

/-- Every port changed where it is. -/
theorem allStay (h : s.Fits away) {u : Table 8 Port} (hu : ∀ p, (s.port p).Stays (u.get p)) :
    State.Fits away { s with ports := u } where
  one := h.one
  queue := h.queue
  ports p := (hu p).sound (h.ports p)
  runners e c hc ha := by
    obtain ⟨h1, h2⟩ := h.runners e c hc ha
    exact ⟨(hu _).state.trans h1, (hu _).temp h2⟩
  slots := h.slots
  owned := h.owned
  copies := h.copies
  requests p r hr := h.requests p r ((hu p).reqs r hr)
  names k hk := ⟨(h.names k hk).1, fun ha => (hu k.port).state.trans_ne ((h.names k hk).2 ha)⟩

/-- Slots given back, or with their records changed in place. -/
theorem refit (h : s.Fits away) {u : Table 24 Slot} (hu : ∀ i, (s.slot i).Refit (u.get i)) :
    State.Fits away { s with slots := u } where
  one i j hi hij := by
    change (u.get i).key?.isSome at hi
    change (u.get i).key? = (u.get j).key? at hij
    obtain ⟨k, hk⟩ := Option.isSome_iff_exists.mp hi
    have h1 := (hu i).key? hk
    have h2 := (hu j).key? (hij ▸ hk)
    exact h.one i j (by simp [h1]) (h1.trans h2.symm)
  queue := h.queue
  ports := h.ports
  runners := h.runners
  slots i := (h.slots i).refit (hu i)
  owned i k n hi := by
    change u.get i = _ at hi
    have hr := hi ▸ hu i
    cases hs : s.slot i with
    | free => rw [hs] at hr; cases hr
    | occupied r => rw [hs] at hr; cases hr
    | reserved k' n' =>
      rw [hs] at hr
      cases hr
      exact h.owned i k n hs
  copies := h.copies
  requests := h.requests
  names := h.names

/-- One slot replaced, by one whose key has no other slot. -/
theorem setSlot (h : s.Fits away) (i : SlotId) {x : Slot} (hx : s.SlotFits x)
    (hk : ∀ k j, x.key? = some k → (s.slot j).key? = some k → j = i)
    (ho : ∀ k n, x = .reserved k n → s.Runs k) : (s.setSlot i x).Fits away where
  one a b := by
    simp only [State.slot_setSlot]
    split_ifs with ha hb hb
    · exact fun _ _ => ha ▸ hb
    · intro hs he
      obtain ⟨k, hkey⟩ := Option.isSome_iff_exists.mp hs
      exact absurd (hk k b hkey (he ▸ hkey)).symm hb
    · intro hs he
      obtain ⟨k, hkey⟩ := Option.isSome_iff_exists.mp hs
      exact absurd (hk k a (he ▸ hkey) hkey).symm ha
    · exact h.one a b
  queue := h.queue
  ports := h.ports
  runners := h.runners
  slots j := by
    rw [State.slot_setSlot]
    split_ifs
    · exact hx
    · exact h.slots j
  owned j k n hj := by
    rw [State.slot_setSlot] at hj
    split_ifs at hj
    · exact ho k n hj
    · exact h.owned j k n hj
  copies := h.copies
  requests := h.requests
  names := h.names

/-- Engines changed but for their jobs and profile copies. -/
theorem enginesTo (h : s.Fits away) {u : Table 2 Engine}
    (hu : ∀ e, (u.get e).ctx.map (fun c => (c.job, c.profile)) =
      (s.engine e).ctx.map fun c => (c.job, c.profile)) :
    State.Fits away { s with engines := u } := by
  have old : ∀ e c, (u.get e).ctx = some c →
      ∃ c', (s.engine e).ctx = some c' ∧ c'.job = c.job ∧ c'.profile = c.profile := by
    intro e c hc
    have := hu e
    rw [hc, Option.map_some, eq_comm, Option.map_eq_some_iff] at this
    obtain ⟨c', hc', he⟩ := this
    exact ⟨c', hc', (Prod.mk.inj he).1, (Prod.mk.inj he).2⟩
  have new : ∀ e c, (s.engine e).ctx = some c → ∃ c', (u.get e).ctx = some c' ∧ c'.job = c.job := by
    intro e c hc
    have := hu e
    rw [hc, Option.map_some, Option.map_eq_some_iff] at this
    obtain ⟨c', hc', he⟩ := this
    exact ⟨c', hc', (Prod.mk.inj he).1⟩
  have hrun : State.running { s with engines := u } = s.running := by
    refine State.running_congr fun e => ?_
    have := congrArg (Option.map Prod.fst) (hu e)
    rw [Option.map_map, Option.map_map] at this
    exact this
  refine ⟨h.one, by rw [hrun]; exact h.queue, h.ports, fun e c hc ha => ?_, h.slots,
    fun i k n hi => ?_, fun e c hc => ?_, h.requests, fun k hk => ?_⟩
  · obtain ⟨c', hc', hj, _⟩ := old e c hc
    rw [← hj] at ha ⊢
    exact h.runners e c' hc' ha
  · obtain ⟨e, c, hc, hk⟩ := h.owned i k n hi
    obtain ⟨c', hc', hj⟩ := new e c hc
    exact ⟨e, c', hc', hj ▸ hk⟩
  · obtain ⟨c', hc', hj, hp⟩ := old e c hc
    rw [← hj, ← hp]
    exact h.copies e c' hc'
  · refine h.names k ?_
    rwa [State.Names, hrun] at hk

/-- One engine changed but for its job and profile copy. -/
theorem modEngine (h : s.Fits away) (e : EngineId) {f : Engine → Engine}
    (hf : (f (s.engine e)).ctx.map (fun c => (c.job, c.profile)) =
      (s.engine e).ctx.map fun c => (c.job, c.profile)) : (s.modEngine e f).Fits away := by
  refine h.enginesTo fun d => ?_
  rw [Table.get_set]
  split_ifs with hd
  · exact hd ▸ hf
  · rfl

/-- Jobs leave the queue. -/
theorem queueTo (h : s.Fits away) {q : List Job} (hq : q.Sublist s.queued) :
    State.Fits away { s with queued := q } where
  one := h.one
  queue := h.queue.sublist hq
  ports := h.ports
  runners := h.runners
  slots := h.slots
  owned := h.owned
  copies := h.copies
  requests := h.requests
  names k hk := h.names k (hk.imp_left fun ⟨j, hj, he⟩ => ⟨j, (hq.append_right _).subset hj, he⟩)

/-- AUTO requests handed over or taken. -/
theorem autoTo (h : s.Fits away) {l : List Key} (hl : ∀ k ∈ l, k ∈ s.autoReqs ∨
      (s.classEnabled k = true ∧ (away ≠ some k.port → (s.port k.port).state ≠ .offline))) :
    State.Fits away { s with autoReqs := l } where
  one := h.one
  queue := h.queue
  ports := h.ports
  runners := h.runners
  slots := h.slots
  owned := h.owned
  copies := h.copies
  requests := h.requests
  names k hk := by
    rcases hk with hj | hk | hm
    · exact h.names k (.inl hj)
    · exact (hl k hk).elim (fun ha => h.names k (.inr (.inl ha))) id
    · exact h.names k (.inr (.inr hm))

/-- The mailbox changed; a QUEUE_TRAINING started names a key that may be trained (R180). -/
theorem mailboxTo (h : s.Fits away) {m : Mailbox}
    (hm : ∀ c k, m.copy = some c → c.code = 0x06 → c.key = some k → s.classEnabled k = true ∧
      (away ≠ some k.port → (s.port k.port).state ≠ .offline)) :
    State.Fits away { s with mb := m } where
  one := h.one
  queue := h.queue
  ports := h.ports
  runners := h.runners
  slots := h.slots
  owned := h.owned
  copies := h.copies
  requests := h.requests
  names k hk := by
    rcases hk with hj | hk | ⟨c, hc, h6, hk⟩
    · exact h.names k (.inl hj)
    · exact h.names k (.inr (.inl hk))
    · exact hm c k hc h6 hk

/-! ### What the parts say together -/

/-- Without a port on its way out, a key named has a port that is not OFFLINE and an enabled class. -/
theorem named (h : s.Fits none) {k : Key} (hk : s.Names k) :
    s.classEnabled k = true ∧ (s.port k.port).state ≠ .offline :=
  ⟨(h.names k hk).1, (h.names k hk).2 nofun⟩

theorem running_online (h : s.Fits none) {e : EngineId} {c : Ctx} (hc : (s.engine e).ctx = some c) :
    (s.port c.job.key.port).state = .online ∧ (s.port c.job.key.port).temp ≠ .unknown :=
  h.runners e c hc nofun

theorem not_offline_of_running (h : s.Fits none) {e : EngineId} {c : Ctx}
    (hc : (s.engine e).ctx = some c) : (s.port c.job.key.port).state ≠ .offline := by
  rw [(h.running_online hc).1]
  decide

/-- A key with a slot has an enabled class. -/
theorem enabled_of_slot (h : s.Fits away) {i : SlotId} {k : Key} (hk : (s.slot i).key? = some k) :
    s.classEnabled k = true := ((h.slots i).1 k hk).2

/-- A port sent on its way. -/
theorem toAway (h : s.Fits none) (p : PortId) : s.Fits (some p) where
  one := h.one
  queue := h.queue
  ports := h.ports
  runners _ _ hc _ := h.running_online hc
  slots := h.slots
  owned := h.owned
  copies := h.copies
  requests := h.requests
  names k hk := ⟨(h.names k hk).1, fun _ => (h.named hk).2⟩

/-- A port arrived: none of its jobs runs, and where it is OFFLINE nothing names it. -/
theorem arrived {p : PortId} (h : s.Fits (some p))
    (hrun : ∀ e c, (s.engine e).ctx = some c → c.job.key.port ≠ p)
    (hoff : (s.port p).state = .offline → ∀ k, s.Names k → k.port ≠ p) : s.Fits none where
  one := h.one
  queue := h.queue
  ports := h.ports
  runners e c hc _ := h.runners e c hc fun he => hrun e c hc (Option.some_inj.mp he).symm
  slots := h.slots
  owned := h.owned
  copies := h.copies
  requests := h.requests
  names k hk := by
    refine ⟨(h.names k hk).1, fun _ ho => ?_⟩
    by_cases hp : k.port = p
    · exact hoff (hp ▸ ho) k hk hp
    · exact (h.names k hk).2 (fun he => hp (Option.some_inj.mp he).symm) ho

end State.Fits

end Sys2Proof.Machine
end

section
/-! PROOF. The joined property along the shared operations: `h.op` says that what fits before `op` fits
after it. -/

namespace Sys2Proof.Machine

/-- A running job's key is named. -/
theorem State.names_of_running {s : State} {e : EngineId} {c : Ctx}
    (hc : (s.engine e).ctx = some c) : s.Names c.job.key :=
  .inl ⟨c.job, List.mem_append_right _ (State.mem_running.mpr ⟨e, c, hc, rfl⟩), rfl⟩

/-! ### What the end of a run leaves (R141) -/

namespace State.RunEnded
variable {s t : State} {e : EngineId} {k : Key}

theorem engine (h : s.RunEnded t e k) (d : EngineId) :
    t.engine d = if e = d then { s.engine e with ctx := none } else s.engine d := by
  obtain ⟨he, _, _⟩ := h
  rw [State.engine, he]
  exact Table.get_set _ _ _ _

theorem ctx_old (h : s.RunEnded t e k) {d : EngineId} {x : Ctx} (hx : (t.engine d).ctx = some x) :
    (s.engine d).ctx = some x := by
  rw [h.engine] at hx
  split_ifs at hx
  exact hx

theorem running_perm (h : s.RunEnded t e k) {c : Ctx} (hc : (s.engine e).ctx = some c) :
    s.running.Perm (c.job :: t.running) :=
  State.running_perm_of_idle hc (by rw [h.engine, if_pos rfl]) fun d hd => by
    rw [h.engine, if_neg hd.symm]

theorem refit (h : s.RunEnded t e k) (i : SlotId) : (s.slot i).Refit (t.slot i) := by
  obtain ⟨_, hslot, _⟩ := h
  rw [hslot]
  cases s.slot i with
  | free => exact .same _
  | occupied r => exact .same _
  | reserved k' n =>
    simp only
    split_ifs
    · exact .freed _
    · exact .same _

/-- A reservation left is another key's. -/
theorem reserved_old (h : s.RunEnded t e k) {i : SlotId} {k' : Key} {n : Nat}
    (hi : t.slot i = .reserved k' n) : s.slot i = .reserved k' n ∧ k' ≠ k := by
  obtain ⟨_, hslot, _⟩ := h
  rw [hslot] at hi
  cases hs : s.slot i with
  | free => simp [hs] at hi
  | occupied r => simp [hs] at hi
  | reserved k'' m =>
    simp only [hs] at hi
    split_ifs at hi with hk
    cases hi
    exact ⟨rfl, hk⟩

end State.RunEnded

namespace State.Fits
variable {away : Option PortId} {s : State}

/-! ### Fields of their own -/

theorem decide (h : s.Fits away) : s.decide.Fits away := h.frame rfl rfl rfl rfl rfl rfl rfl
theorem raise (h : s.Fits away) (f : EventFlag) : (s.raise f).Fits away :=
  h.frame rfl rfl rfl rfl rfl rfl rfl
theorem reach (h : s.Fits away) (m : Nat) : (s.reach m).Fits away :=
  h.frame rfl rfl rfl rfl rfl rfl rfl
theorem rescanAfter (h : s.Fits away) (n : Nat) : (s.rescanAfter n).Fits away :=
  h.frame rfl rfl rfl rfl rfl rfl rfl
theorem granted (h : s.Fits away) (r : Requester) : (s.granted r).Fits away :=
  h.frame rfl rfl rfl rfl rfl rfl rfl
theorem setBudget (h : s.Fits away) (c : ClassId) (b : Budget) : (s.setBudget c b).Fits away :=
  h.frame rfl rfl rfl rfl rfl rfl rfl
theorem enteredOnline (h : s.Fits away) : s.enteredOnline.Fits away := (h.rescanAfter 1).decide

/-- A command's end leaves no copy (R173). -/
theorem endCommand (h : s.Fits away) (st : Status) (retired : Bool) :
    (s.endCommand st retired).Fits away :=
  (h.mailboxTo (m := { s.mb with result := st, retired := retired, copy := none }) nofun).raise _

theorem endWithBuffer (h : s.Fits away) (bytes : List Byte) : (s.endWithBuffer bytes).Fits away :=
  (h.mailboxTo (m := { s.mb with
    buffer := Memory.ofBytes bytes, result := .done, retired := false, copy := none }) nofun).raise _

/-! ### The output lists -/

theorem emit (h : s.Fits away) (p : PortId) (f : OutFrame) (hs : (s.port p).state ≠ .offline) :
    (s.emit p f).Fits away := h.stays p (.place _ hs)

theorem answer (h : s.Fits away) (p : PortId) (tag : Byte) (st : Status) (gen : Option Nat)
    (flags : Option JobFlags) (hs : (s.port p).state ≠ .offline) :
    (s.answer p tag st gen flags).Fits away := h.emit p _ hs

theorem answerAtOnce (h : s.Fits away) (p : PortId) (tag : Byte) (st : Status)
    (hs : (s.port p).state ≠ .offline) : (s.answerAtOnce p tag st).Fits away := by
  rcases s.answerAtOnce_cases p tag st with e | e
  · exact e ▸ h.emit p _ hs
  · rwa [e]

theorem placeEnd (h : s.Fits away) (k : Key) (o : JobOutcome) (gen : Option Nat)
    (hs : (s.port k.port).state ≠ .offline) : (s.placeEnd k o gen).Fits away := by
  have placed := h.emit k.port (.endTraining k.cls o gen) hs
  exact placed.stays k.port (.settings _ _ _)

theorem notify (h : s.Fits away) (r : Record) (kind : NoticeKind) (gen : Nat) :
    (s.notify r kind gen).Fits away := by
  unfold State.notify
  split_ifs with hc
  · exact h.stays _ (.placeNotice _ _ _ (by simp [hc.2]))
  · exact h

/-- An AUTO request names an enabled class of a port that is not OFFLINE (R45). -/
theorem staleRequest (h : s.Fits away) (r : Record) (hk : s.classEnabled r.key = true) :
    (s.staleRequest r).Fits away := by
  unfold State.staleRequest
  split_ifs with ho hh
  · exact h.raise _
  · exact h
  · refine h.autoTo fun k hm => ?_
    rcases List.mem_append.mp hm with hm | hm
    · exact .inl hm
    · rw [List.mem_singleton.mp hm]
      exact .inr ⟨hk, fun _ hoff => ho (.inr hoff)⟩

theorem turnedStale (h : s.Fits away) (r : Record) (hk : s.classEnabled r.key = true) :
    (s.turnedStale r).Fits away := by
  refine (h.notify r .stale r.gen).staleRequest r ?_
  rw [State.notify_eq]
  exact hk

/-! ### The store -/

/-- A record changed in place but for key, lane count and the shape of its lanes. -/
theorem record (h : s.Fits away) {i : SlotId} {r q : Record} (hr : s.slot i = .occupied r)
    (hk : q.key = r.key) (hl : q.laneCount = r.laneCount)
    (hs : q.lanes.map (fun l => l.ref.isSome) = r.lanes.map fun l => l.ref.isSome) :
    (s.setSlot i (.occupied q)).Fits away := by
  refine h.refit fun j => ?_
  rw [Table.get_set]
  split_ifs with hij
  · rw [← hij, hr]
    exact .record hk hl hs
  · exact .same _

theorem releaseSlot (h : s.Fits away) (i : SlotId) : (s.releaseSlot i).Fits away := by
  have freed : State.Fits away { s with slots := s.slots.set i .free } := h.refit fun j => by
    rw [Table.get_set]
    split_ifs
    · exact .freed _
    · exact .same _
  exact freed.frame rfl rfl rfl rfl rfl rfl rfl

theorem setCondition (h : s.Fits away) (i : SlotId) (c : Condition) :
    (s.setCondition i c).Fits away := by
  unfold State.setCondition
  split
  · rename_i r hr
    have changed := h.record (q := { r with cond := c }) hr rfl rfl rfl
    simp only
    split_ifs
    · refine changed.turnedStale _ ?_
      exact h.enabled_of_slot (i := i) (by simp [hr, Slot.key?])
    · exact changed
  · exact h
  · exact h

theorem evaluate (h : s.Fits away) (f : Record → Condition) : (s.evaluate f).Fits away := by
  unfold State.evaluate
  generalize List.finRange 24 = l
  induction l generalizing s with
  | nil => exact h
  | cons i l ih =>
    refine ih ?_
    beta_reduce
    split
    · exact h.setCondition i _
    · exact h
    · exact h

theorem advanceStamp (h : s.Fits away) : s.advanceStamp.Fits away := by
  obtain ⟨f, n, he⟩ := s.advanceStamp_eq
  have stamped := h.refit (u := s.slots.map (Slot.mapRecord fun r => { r with stamp := f r })) fun i => by
    rw [Table.get_map]
    exact Slot.refit_mapRecord (f := fun r => { r with stamp := f r }) (fun _ => rfl) (fun _ => rfl)
      (fun _ => rfl) _
  rw [he]
  exact stamped.frame rfl rfl rfl rfl rfl rfl rfl

theorem touch (h : s.Fits away) (i : SlotId) : (s.touch i).Fits away := by
  refine h.advanceStamp.refit fun j => ?_
  rw [Table.get_set]
  split_ifs with hij
  · rw [← hij]
    exact Slot.refit_mapRecord (f := fun r => { r with stamp := s.advanceStamp.stamp }) (fun _ => rfl)
      (fun _ => rfl) (fun _ => rfl) _
  · exact .same _

theorem allocate (h : s.Fits away) {t : State} {n : Nat} {i : SlotId}
    (ha : s.allocate n = some (i, t)) : t.Fits away := by
  obtain ⟨he, _, _, _, hslot⟩ := State.allocate_spec ha
  have freed : State.Fits away { s with slots := t.slots } := h.refit fun j => by
    rcases hslot j with hj | ⟨hj, _⟩
    · exact (show t.slots.get j = s.slot j from hj) ▸ .same _
    · exact (show t.slots.get j = .free from hj) ▸ .freed _
  rw [he]
  exact freed.frame rfl rfl rfl rfl rfl rfl rfl

theorem clearHoldOff (h : s.Fits away) (k : Key) : (s.clearHoldOff k).Fits away := by
  unfold State.clearHoldOff
  split
  · rename_i hr
    exact h.record (State.recordOf_eq_some.mp hr).2 rfl rfl rfl
  · exact h

theorem setHoldOff (h : s.Fits away) (k : Key) : (s.setHoldOff k).Fits away := by
  unfold State.setHoldOff
  split
  · rename_i hr
    exact h.record (State.recordOf_eq_some.mp hr).2 rfl rfl rfl
  · exact h

/-! ### The end of a run (R141) -/

theorem endRun (h : s.Fits away) {e : EngineId} {c : Ctx} (hc : (s.engine e).ctx = some c) :
    (s.endRun e c.job.key).Fits away ∧
      SoundQueue s.queued (c.job :: (s.endRun e c.job.key).running) ∧
      ∃ slots free, s.endRun e c.job.key = { s with
        ports := s.ports.set c.job.key.port (s.port c.job.key.port).withdraw
        slots := slots, free := free
        engines := s.engines.set e { s.engine e with ctx := none } } := by
  obtain ⟨slots, free, heq, hend⟩ := s.endRun_spec e c.job.key h.one
  have withdrawn := h.stays c.job.key.port (f := Port.withdraw) .withdraw
  have hqueue := h.queue.perm_running (hend.running_perm hc)
  have hrefit := withdrawn.refit (u := (s.endRun e c.job.key).slots) hend.refit
  have hport : (s.endRun e c.job.key).port = (s.modPort c.job.key.port Port.withdraw).port := by
    rw [heq]
    rfl
  have hprof : (s.endRun e c.job.key).profiles = s.profiles := by rw [heq]
  have hqueued : (s.endRun e c.job.key).queued = s.queued := by rw [heq]
  refine ⟨⟨hrefit.one, ?_, hport ▸ withdrawn.ports, fun d x hx ha => ?_, fun i => ?_,
    fun i k n hi => ?_, fun d x hx => ?_, ?_, fun k hk => ?_⟩, hqueue, slots, free, heq⟩
  · rw [hqueued]
    exact hqueue.ended
  · rw [hport]
    exact withdrawn.runners d x (hend.ctx_old hx) ha
  · rw [State.slotFits_congr hprof]
    exact (h.slots i).refit (hend.refit i)
  · obtain ⟨hi, hk⟩ := hend.reserved_old hi
    obtain ⟨d, x, hx, rfl⟩ := h.owned i k n hi
    refine ⟨d, x, ?_, rfl⟩
    rw [hend.engine, if_neg, hx]
    rintro rfl
    rw [hc] at hx
    exact hk (congrArg (fun y : Ctx => y.job.key) (Option.some_inj.mp hx)).symm
  · rw [(State.classEnabled_congr hprof).1]
    exact h.copies d x (hend.ctx_old hx)
  · rw [hport, State.requestFits_congr hprof]
    exact withdrawn.requests
  · rw [(State.classEnabled_congr hprof).2, hport]
    refine withdrawn.names k ?_
    rcases hk with ⟨j, hj, hjk⟩ | hk
    · refine .inl ⟨j, ?_, hjk⟩
      rw [hqueued] at hj
      exact (List.mem_append.mp hj).elim (fun hj => List.mem_append_left _ hj) fun hj =>
        List.mem_append_right _ ((hend.running_perm hc).mem_iff.mpr (List.mem_cons_of_mem _ hj))
    · rw [heq] at hk
      exact .inr hk

/-- The state of a port after the end of a run. -/
theorem port_endRun (h : s.Fits away) {e : EngineId} {c : Ctx} (hc : (s.engine e).ctx = some c)
    (p : PortId) : ((s.endRun e c.job.key).port p).state = (s.port p).state := by
  obtain ⟨_, _, slots, free, heq⟩ := h.endRun hc
  rw [heq]
  change ((s.ports.set _ _).get p).state = _
  rw [Table.get_set]
  split_ifs with hp
  · rw [← hp]
    rfl
  · rfl

/-- After the end of a run the engine is idle and the other runs on. -/
theorem engine_endRun (h : s.Fits away) {e : EngineId} {c : Ctx} (hc : (s.engine e).ctx = some c)
    (d : EngineId) : ((s.endRun e c.job.key).engine d).ctx =
      if e = d then none else (s.engine d).ctx := by
  obtain ⟨_, _, slots, free, heq⟩ := h.endRun hc
  rw [heq]
  change ((s.engines.set _ _).get d).ctx = _
  rw [Table.get_set]
  split_ifs <;> rfl

theorem endJob (h : s.Fits none) {e : EngineId} {c : Ctx} (hc : (s.engine e).ctx = some c)
    (o : JobOutcome) (gen : Option Nat) : (s.endJob e c.job.key o gen).Fits none := by
  refine ((h.endRun hc).1.placeEnd _ o gen ?_).rescanAfter 1
  rw [h.port_endRun hc]
  exact h.not_offline_of_running hc

/-- A job put back at the front of its urgency group (R107). -/
theorem requeue (h : s.Fits away) {j : Job} (hq : SoundQueue s.queued (j :: s.running))
    (attempts : Nat) (hk : s.classEnabled j.key = true ∧
      (away ≠ some j.key.port → (s.port j.key.port).state ≠ .offline)) :
    (s.requeue { j with attempts := attempts }).Fits away where
  one := h.one
  queue := hq.requeued attempts
  ports := h.ports
  runners := h.runners
  slots := h.slots
  owned := h.owned
  copies := h.copies
  requests := h.requests
  names k hn := by
    rcases hn with ⟨x, hx, rfl⟩ | hn
    · rcases List.mem_append.mp hx with hx | hx
      · rcases List.mem_cons.mp ((joinFront_perm _ _).mem_iff.mp hx) with rfl | hx
        · exact hk
        · exact h.names _ (.inl ⟨x, List.mem_append_left _ hx, rfl⟩)
      · exact h.names _ (.inl ⟨x, List.mem_append_right _ hx, rfl⟩)
    · exact h.names k (.inr hn)

theorem abandon (h : s.Fits away) {e : EngineId} {c : Ctx} (hc : (s.engine e).ctx = some c)
    (sends : Bool) (attempts : Nat)
    (hs : sends = true → (s.port c.job.key.port).state ≠ .offline) :
    (s.abandon e c sends attempts).Fits away := by
  obtain ⟨hend, hq, slots, free, heq⟩ := h.endRun hc
  have hnames := h.names _ (State.names_of_running hc)
  have hport := h.port_endRun hc c.job.key.port
  have hclass : (s.endRun e c.job.key).classEnabled c.job.key = true := by
    rw [heq]
    exact hnames.1
  have hqueued : (s.endRun e c.job.key).queued = s.queued := by rw [heq]
  rw [← hqueued] at hq
  cases sends with
  | false => exact hend.requeue hq attempts ⟨hclass, fun ha => hport ▸ hnames.2 ha⟩
  | true =>
    have placed := hend.placeEnd c.job.key .deferred none (hport ▸ hs rfl)
    refine placed.requeue hq attempts ⟨hclass, fun _ => ?_⟩
    have hstate : (((s.endRun e c.job.key).placeEnd c.job.key .deferred none).port
        c.job.key.port).state = ((s.endRun e c.job.key).port c.job.key.port).state := by
      simp [State.placeEnd, State.emit]
    rw [hstate, hport]
    exact hs rfl

/-- Two engines do not run jobs of one port (R111). -/
theorem engines_apart (h : s.Fits away) {e d : EngineId} {c x : Ctx}
    (hc : (s.engine e).ctx = some c) (hx : (s.engine d).ctx = some x)
    (hp : x.job.key.port = c.job.key.port) : d = e := by
  by_contra hne
  obtain ⟨_, hq, _⟩ := h.endRun hc
  refine (List.nodup_cons.mp hq.portsApart).1 (List.mem_map.mpr ⟨x.job, ?_, hp⟩)
  refine State.mem_running.mpr ⟨d, x, ?_, rfl⟩
  rw [h.engine_endRun hc, if_neg fun he => hne he.symm, hx]

end State.Fits

theorem State.engine_abandon (s : State) (e : EngineId) (c : Ctx) (sends : Bool) (attempts : Nat) :
    (s.abandon e c sends attempts).engine = (s.endRun e c.job.key).engine := by
  cases sends <;> rfl

theorem State.state_port_placeEnd (s : State) (k : Key) (o : JobOutcome) (gen : Option Nat) :
    ((s.placeEnd k o gen).port k.port).state = (s.port k.port).state := by
  simp [State.placeEnd, State.emit]

theorem State.state_port_abandon (s : State) (e : EngineId) (c : Ctx) (sends : Bool) (attempts : Nat) :
    ((s.abandon e c sends attempts).port c.job.key.port).state =
      ((s.endRun e c.job.key).port c.job.key.port).state := by
  cases sends with
  | false => rfl
  | true => exact State.state_port_placeEnd _ c.job.key _ _

namespace State.Fits
variable {away : Option PortId} {s : State}

/-- With the job of the port on its way abandoned, the port has arrived (R62, R64, R60, R150). -/
theorem abandonPort {p : PortId} (h : s.Fits (some p)) (sends : Bool)
    (hs : (s.port p).state ≠ .offline) : (s.abandonPort p sends).Fits none := by
  cases hr : s.runningPort p with
  | some x =>
    obtain ⟨e, c⟩ := x
    obtain ⟨hc, rfl⟩ := State.runningPort_eq_some hr
    rw [State.abandonPort, hr]
    refine (h.abandon hc sends _ fun _ => hs).arrived (fun d x hx hxp => ?_) fun ho => ?_
    · rw [State.engine_abandon, h.engine_endRun hc] at hx
      split_ifs at hx with hd
      exact hd (h.engines_apart hc hx hxp).symm
    · rw [State.state_port_abandon, h.port_endRun hc] at ho
      exact absurd ho hs
  | none =>
    rw [State.abandonPort, hr]
    have hnone := State.runningWhere_eq_none.mp hr
    refine h.arrived (fun d x hx hxp => ?_) fun ho => absurd ho hs
    simpa [hxp] using hnone d x hx

/-- Where no job, AUTO request or started QUEUE_TRAINING is of port `p`, no key named is. -/
theorem unnamed {p : PortId} (hq : ∀ j ∈ s.queued, j.key.port ≠ p)
    (hr : ∀ e c, (s.engine e).ctx = some c → c.job.key.port ≠ p) (ha : ∀ k ∈ s.autoReqs, k.port ≠ p)
    (hm : ∀ c k, s.mb.copy = some c → c.code = 0x06 → c.key = some k → k.port ≠ p) {k : Key}
    (hk : s.Names k) : k.port ≠ p := by
  rcases hk with ⟨j, hj, rfl⟩ | hk | ⟨c, hc, h6, hk⟩
  · rcases List.mem_append.mp hj with hj | hj
    · exact hq j hj
    · obtain ⟨e, c, hc, rfl⟩ := State.mem_running.mp hj
      exact hr e c hc
  · exact ha k hk
  · exact hm c k hc h6 hk

end State.Fits

/-- The QUEUED jobs of a port are gone, with their rescans (R108). -/
def State.dequeuePort (s : State) (p : PortId) : State :=
  State.rescanAfter { s with queued := s.queued.filter fun j : Job => j.key.port != p }
    (s.queued.length - (s.queued.filter fun j : Job => j.key.port != p).length)

theorem State.removePortJobs_of_some {s : State} {p : PortId} {e : EngineId} {c : Ctx}
    (h : (s.dequeuePort p).runningPort p = some (e, c)) :
    s.removePortJobs p = ((s.dequeuePort p).endRun e c.job.key).rescanAfter 1 := by
  rw [State.dequeuePort] at h ⊢
  simp only [State.removePortJobs, h]

theorem State.removePortJobs_of_none {s : State} {p : PortId}
    (h : (s.dequeuePort p).runningPort p = none) : s.removePortJobs p = s.dequeuePort p := by
  rw [State.dequeuePort] at h ⊢
  simp only [State.removePortJobs, h]

namespace State.Fits
variable {away : Option PortId} {s : State}

/-- With every job of the port removed, the port has arrived, OFFLINE or not, where neither an AUTO
request nor a started QUEUE_TRAINING names it (R66, R108, R152). -/
theorem removePortJobs {p : PortId} (h : s.Fits (some p)) (ha : ∀ k ∈ s.autoReqs, k.port ≠ p)
    (hm : ∀ c k, s.mb.copy = some c → c.code = 0x06 → c.key = some k → k.port ≠ p) :
    (s.removePortJobs p).Fits none := by
  have dequeued : (s.dequeuePort p).Fits (some p) := (h.queueTo List.filter_sublist).rescanAfter _
  have unqueued : ∀ j ∈ (s.dequeuePort p).queued, j.key.port ≠ p := fun j hj => by
    simpa using (List.mem_filter.mp hj).2
  cases hr : (s.dequeuePort p).runningPort p with
  | some x =>
    obtain ⟨e, c⟩ := x
    obtain ⟨hc, hp⟩ := State.runningPort_eq_some hr
    obtain ⟨hend, _, slots, free, heq⟩ := dequeued.endRun hc
    have gone : ∀ d y, (((s.dequeuePort p).endRun e c.job.key).engine d).ctx = some y →
        y.job.key.port ≠ p := by
      intro d y hy hyp
      rw [dequeued.engine_endRun hc] at hy
      split_ifs at hy with hd
      exact hd (dequeued.engines_apart hc hy (hyp.trans hp.symm)).symm
    rw [State.removePortJobs_of_some hr]
    refine (hend.arrived gone fun _ k hk => ?_).rescanAfter 1
    exact unnamed (by rwa [heq]) gone (by rwa [heq]) (by rwa [heq]) hk
  | none =>
    have gone : ∀ d x, ((s.dequeuePort p).engine d).ctx = some x → x.job.key.port ≠ p :=
      fun d x hx => by simpa using State.runningWhere_eq_none.mp hr d x hx
    rw [State.removePortJobs_of_none hr]
    exact dequeued.arrived gone fun _ _ hk => unnamed unqueued gone ha hm hk

theorem cancelJobs (h : s.Fits none) (k : Key) : (s.cancelJobs k).Fits none := by
  have dequeued := (h.queueTo (q := withoutKey k s.queued) List.filter_sublist).rescanAfter
    (s.queued.length - (withoutKey k s.queued).length)
  unfold State.cancelJobs
  simp only
  split
  · rename_i e c hr
    exact dequeued.endJob (State.runningKey_eq_some hr).1 _ _
  · exact dequeued

theorem retireHost (h : s.Fits away) (i : SlotId) (r : Record) : (s.retireHost i r).Fits away :=
  (h.releaseSlot i).notify r .retired r.gen

/-! ### Enqueues and starts -/

/-- The jobs after an enqueue have the keys of those before it, and the key enqueued. -/
theorem key_of_enqueue {k : Key} {o : JobOrigin} {u : Urgency} {j : Job}
    (hj : j ∈ (s.enqueue k o u).1.queued) : j.key = k ∨ ∃ x ∈ s.queued, x.key = j.key := by
  obtain ⟨q, he, hq⟩ := s.enqueue_cases k o u
  rw [he] at hj
  change j ∈ q at hj
  rcases hq with rfl | ⟨x, hx, hxk, rfl | rfl⟩ | ⟨_, _, rfl⟩
  · exact .inr ⟨j, hj, rfl⟩
  · rcases List.mem_cons.mp ((joinTail_perm _ _).mem_iff.mp hj) with rfl | hj
    · exact .inl hxk
    · exact .inr ⟨j, (List.mem_filter.mp hj).1, rfl⟩
  · obtain ⟨y, hy, rfl⟩ := List.mem_map.mp hj
    split_ifs with hyk
    · exact .inl hxk
    · exact .inr ⟨y, hy, rfl⟩
  · rcases List.mem_cons.mp ((joinTail_perm _ _).mem_iff.mp hj) with rfl | hj
    · exact .inl rfl
    · exact .inr ⟨j, hj, rfl⟩

theorem enqueue (h : s.Fits none) (k : Key) (o : JobOrigin) (u : Urgency)
    (hk : s.classEnabled k = true) (hs : (s.port k.port).state ≠ .offline) :
    (s.enqueue k o u).1.Fits none := by
  have hq : (s.enqueue k o u).1.QueueSound := (s.queueSound_iff.mpr h.queue).enqueue k o u
  have hkeys := fun j => key_of_enqueue (s := s) (k := k) (o := o) (u := u) (j := j)
  rw [State.queueSound_iff] at hq
  rw [s.enqueue_eq] at hq ⊢
  refine ⟨h.one, hq, h.ports, h.runners, h.slots, h.owned, h.copies, h.requests, fun k' hn => ?_⟩
  rcases hn with ⟨j, hj, rfl⟩ | hn
  · rcases List.mem_append.mp hj with hj | hj
    · rcases hkeys j hj with he | ⟨x, hx, he⟩
      · rw [he]
        exact ⟨hk, fun _ => hs⟩
      · exact h.names _ (.inl ⟨x, List.mem_append_left _ hx, he⟩)
    · exact h.names _ (.inl ⟨j, List.mem_append_right _ hj, rfl⟩)
  · exact h.names k' (.inr hn)

/-- A job starts on an idle engine, its port ONLINE and FRESH and without another (R111, R116). -/
theorem startJob (h : s.Fits none) {e : EngineId} {j : Job} (v : Int)
    (he : (s.engine e).ctx = none) (hj : j ∈ s.queued)
    (hp : ∀ x ∈ s.running, x.key.port ≠ j.key.port) (hs : (s.port j.key.port).state = .online)
    (ht : (s.port j.key.port).temp ≠ .unknown) : (s.startJob e j v).Fits none := by
  have engine : ∀ d, ((s.startJob e j v).engine d).ctx =
      if e = d then some (s.startCtx j v) else (s.engine d).ctx := fun d => by
    change ((s.engines.set e _).get d).ctx = _
    rw [Table.get_set]
    split_ifs <;> rfl
  have hrun : (s.startJob e j v).running.Perm (j :: s.running) :=
    State.running_perm_of_idle (c := s.startCtx j v) (by rw [engine, if_pos rfl]) he fun d hd => by
      rw [engine, if_neg hd.symm]
  have cases : ∀ d x, ((s.startJob e j v).engine d).ctx = some x →
      x = s.startCtx j v ∨ (s.engine d).ctx = some x := fun d x hx => by
    rw [engine] at hx
    split_ifs at hx
    · exact .inl (Option.some_inj.mp hx).symm
    · exact .inr hx
  refine ⟨h.one, (h.queue.started hj hp).perm_running hrun.symm, h.ports, fun d x hx _ => ?_, h.slots,
    fun i k n hi => ?_, fun d x hx => ?_, h.requests, fun k hk => ?_⟩
  · rcases cases d x hx with rfl | hx
    · exact ⟨hs, ht⟩
    · exact h.running_online hx
  · obtain ⟨d, x, hx, hxk⟩ := h.owned i k n hi
    refine ⟨d, x, ?_, hxk⟩
    rw [engine, if_neg, hx]
    rintro rfl
    simp [he] at hx
  · rcases cases d x hx with rfl | hx
    · rfl
    · exact h.copies d x hx
  · refine h.names k ?_
    rcases hk with ⟨x, hx, rfl⟩ | hk
    · left
      rcases List.mem_append.mp hx with hx | hx
      · exact ⟨x, List.mem_append_left _ (List.mem_filter.mp hx).1, rfl⟩
      · rcases List.mem_cons.mp (hrun.mem_iff.mp hx) with rfl | hx
        · exact ⟨x, List.mem_append_left _ hj, rfl⟩
        · exact ⟨x, List.mem_append_right _ hx, rfl⟩
    · exact .inr hk

/-! ### Engines at work -/

/-- Engine `e` goes on with a context of the same job and profile copy (R125). -/
theorem setCtx (h : s.Fits away) {e : EngineId} {c x : Ctx} (hc : (s.engine e).ctx = some c)
    (hj : x.job = c.job) (hp : x.profile = c.profile) : (s.setCtx e (some x)).Fits away :=
  h.modEngine e (by simp [hc, hj, hp])

theorem placeDirective (h : s.Fits none) {e : EngineId} {c x : Ctx} (hc : (s.engine e).ctx = some c)
    (hj : x.job = c.job) (hp : x.profile = c.profile) (resend : Bool) :
    (s.placeDirective e x resend).Fits none := by
  have engined : (s.modEngine e fun y => { y with
      nextId := (s.engine e).nextId + 1
      ctx := some { x with
        outstanding := some (s.engine e).nextId, leaving := some (s.engine e).nextId, timer := none
        retry := resend } }).Fits none := h.modEngine e (by simp [hc, hj, hp])
  exact engined.stays x.job.key.port (.place _ (by rw [hj]; exact h.not_offline_of_running hc))

theorem proceed (h : s.Fits none) {e : EngineId} {c x : Ctx} (hc : (s.engine e).ctx = some c)
    (hj : x.job = c.job) (hp : x.profile = c.profile) : (s.proceed e x).Fits none := by
  rcases s.proceed_cases e x with he | he
  · exact he ▸ h.placeDirective hc hj hp false
  · exact he ▸ h.setCtx hc hj hp

end State.Fits

end Sys2Proof.Machine
end

section
/-! PROOF. A port's ways out of ONLINE, and the joined property along them (R57 to R66, R150). -/

namespace Sys2Proof.Machine

/-! ### What the ways out have in common -/

/-- Port `p` becomes `y`, and its records lose the temperature (R32, R33): where every way out of ONLINE
begins. -/
def State.leave (s : State) (p : PortId) (y : Port) (clear : Bool) : State :=
  { s with
    ports := s.ports.set p y
    slots := s.slots.map (Slot.mapRecord (Record.onTempLost p clear)) }

@[simp] theorem State.port_leave_self (s : State) (p : PortId) (y : Port) (clear : Bool) :
    (s.leave p y clear).port p = y := Table.get_set_self _ _ _

@[simp] theorem State.engine_leave (s : State) (p : PortId) (y : Port) (clear : Bool) (e : EngineId) :
    (s.leave p y clear).engine e = s.engine e := rfl

theorem State.loseTemp_eq_leave (s : State) (p : PortId) (clear : Bool) :
    s.loseTemp p clear = s.leave p { s.port p with temp := .unknown } clear := rfl

@[simp] theorem State.leave_modPort (s : State) (p : PortId) (f : Port → Port) (y : Port) (clear : Bool) :
    (s.modPort p f).leave p y clear = s.leave p y clear := by
  simp [State.leave, State.modPort]

theorem State.enterSyncing_eq (s : State) (p : PortId) : s.enterSyncing p =
    (s.leave p { s.port p with state := .syncing, bad := 0, temp := .unknown } false).decide := by
  simp [State.enterSyncing, State.loseTemp_eq_leave]

/-- A port as it enters HELD (R62). -/
def Port.held (x : Port) : Port :=
  { Port.place (plainEntry .hold) { x.clearPending with state := .held, rx := .hunting, bad := 0, reqs := [] }
    with temp := .unknown }

theorem State.enterHeld_eq (s : State) (p : PortId) : s.enterHeld p =
    (((s.leave p (s.port p).held false).raise .portHeld).abandonPort p false).decide := by
  have lost : ∀ t : State, (t.raise .portHeld).loseTemp p false = (t.loseTemp p false).raise .portHeld :=
    fun _ => rfl
  simp only [State.enterHeld, lost, State.emit, State.modPort_modPort, State.loseTemp_eq_leave,
    State.leave_modPort, State.port_modPort_self]
  rfl

/-- A port as it restarts, before the state it restarts to (R64). -/
def Port.restarted (x : Port) (reply : OutFrame) : Port :=
  { Port.place (plainEntry reply) { x.clearPending with reqs := [], bad := 0 } with temp := .unknown }

theorem State.restart_eq (s : State) (p : PortId) (next : PortState) (reply : State → State)
    (f : OutFrame) (hr : ∀ t : State, t.profiles = s.profiles → reply t = t.emit p f) :
    s.restart p next reply =
      (((s.leave p ((s.port p).restarted f) true).abandonPort p false).modPort p fun x =>
        { x with state := next }).decide := by
  have replied := hr (s.modPort p fun x => { x.clearPending with reqs := [], bad := 0 }) rfl
  unfold State.restart
  simp only [replied, State.emit, State.modPort_modPort, State.loseTemp_eq_leave,
    State.leave_modPort, State.port_modPort_self]
  rfl

/-- A port as it is disabled (R66). -/
def Port.disabled (x : Port) : Port :=
  { x with
    state := .offline, rx := .stopped, char := none, bad := 0, reqs := []
    tx := none, pend := [], heldBack := [], temp := .unknown
    finishing := match x.tx with
      | some e => some { e with owner := none }
      | none => x.finishing }

theorem State.disable_eq (s : State) (p : PortId) : s.disable p =
    (State.removePortJobs { s.leave p (s.port p).disabled true with
      autoReqs := s.autoReqs.filter fun k => k.port != p } p).decide := by
  have lost : ∀ f : Port → Port, (s.modPort p f).loseTemp p true =
      s.leave p { f (s.port p) with temp := .unknown } true := fun f => by
    rw [State.loseTemp_eq_leave, State.leave_modPort, State.port_modPort_self]
  have whole : ∀ f : Port → Port, State.removePortJobs { (s.modPort p f).loseTemp p true with
      autoReqs := s.autoReqs.filter fun k => k.port != p } p =
      State.removePortJobs { s.leave p { f (s.port p) with temp := .unknown } true with
        autoReqs := s.autoReqs.filter fun k => k.port != p } p := fun f => by rw [lost]
  exact congrArg State.decide (whole _)

/-- A port as it parks, the request served gone from its queue with the others (R60). -/
def Port.parks (x : Port) (tag : Byte) : Port :=
  { Port.place (plainEntry (.answer tag .done none none)) x with
    reqs := [], state := .parked, temp := .unknown }

theorem State.servePark_eq (s : State) (p : PortId) (tag : Byte) : s.servePark p tag =
    ((s.leave p ((s.port p).parks tag) false).abandonPort p false).decide := by
  simp only [State.servePark, State.answer, State.emit, State.modPort_modPort, State.loseTemp_eq_leave,
    State.leave_modPort, State.port_modPort_self]
  rfl

/-! ### The ports they leave are sound -/

/-- A port out of ONLINE, not OFFLINE, that waits for nothing. -/
theorem Port.sound_of_waiting {y : Port} (hs : y.state ≠ .offline) (ht : y.temp = .unknown)
    (hr : y.reqs = []) (hb : y.bad ≤ Config.badLimit) (hh : y.state = .held → y.bad = 0)
    (hx : y.rx ≠ .stopped) (hl : y.tx = none → y.finishing = none → y.sent = 0) : y.Sound :=
  ⟨fun h => absurd ht h, by simp [hr], fun h => absurd hr h, hb,
    fun h => hh (h.resolve_right hs), by simp [hs, hx], fun h => absurd h hs, hl⟩

namespace Port.Sound
variable {x : Port}

theorem line (h : x.Sound) : x.tx = none → x.finishing = none → x.sent = 0 := by
  obtain ⟨_, _, _, _, _, _, _, hl⟩ := h
  exact hl

theorem bad_le (h : x.Sound) : x.bad ≤ Config.badLimit := by
  obtain ⟨_, _, _, hb, _⟩ := h
  exact hb

theorem receiving (h : x.Sound) (hs : x.state ≠ .offline) : x.rx ≠ .stopped := by
  obtain ⟨_, _, _, _, _, hr, _⟩ := h
  exact fun he => hs (hr.mp he)

theorem held (h : x.Sound) : x.held.Sound := by
  rw [Port.held, Port.place_eq]
  exact Port.sound_of_waiting nofun rfl rfl (Nat.zero_le _) (fun _ => rfl) nofun h.line

theorem restarted (h : x.Sound) (f : OutFrame) (hs : x.state ≠ .offline) :
    (x.restarted f).Sound := by
  rw [Port.restarted, Port.place_eq]
  exact Port.sound_of_waiting hs rfl rfl (Nat.zero_le _) (fun _ => rfl) (h.receiving hs) h.line

theorem disabled (h : x.Sound) : x.disabled.Sound := by
  refine ⟨nofun, Nat.zero_le _, nofun, Nat.zero_le _, fun _ => rfl, Iff.intro (fun _ => rfl) fun _ => rfl,
    fun _ => ⟨rfl, rfl, rfl, rfl⟩, fun _ hf => ?_⟩
  cases ht : x.tx with
  | some e => simp [Port.disabled, ht] at hf
  | none => exact h.line ht (by simpa [Port.disabled, ht] using hf)

theorem parks (h : x.Sound) (tag : Byte) (hs : x.state ≠ .offline) : (x.parks tag).Sound := by
  rw [Port.parks, Port.place_eq]
  exact Port.sound_of_waiting nofun rfl rfl h.bad_le nofun (h.receiving hs) h.line

theorem syncing (h : x.Sound) (ho : x.state ≠ .online) {rx : Rx} (hr : rx ≠ .stopped)
    (char : Option (List Bool)) :
    Port.Sound { x with state := .syncing, bad := 0, temp := .unknown, rx := rx, char := char } :=
  Port.sound_of_waiting nofun rfl (h.reqs_of_not_online ho) (Nat.zero_le _) (fun _ => rfl) hr h.line

theorem unknown (h : x.Sound) : Port.Sound { x with temp := .unknown } := by
  obtain ⟨_, h2, h3, h4, h5, h6, h7, h8⟩ := h
  exact ⟨nofun, h2, h3, h4, h5, h6, h7, h8⟩

/-- A port that waits for nothing moves between states other than OFFLINE and HELD. -/
theorem movesTo (h : x.Sound) (hs : x.state ≠ .offline) (ht : x.temp = .unknown) (hr : x.reqs = [])
    {next : PortState} (hn : next ≠ .offline) (hh : next ≠ .held) :
    Port.Sound { x with state := next } :=
  Port.sound_of_waiting hn ht hr h.bad_le (fun he => absurd he hh) (h.receiving hs) h.line

end Port.Sound

/-! ### The joined property along them -/

namespace State.Fits
variable {away : Option PortId} {s : State}

theorem refit_onTempLost (p : PortId) (clear : Bool) (x : Slot) :
    x.Refit (x.mapRecord (Record.onTempLost p clear)) := by
  refine Slot.refit_mapRecord (fun r => ?_) (fun r => ?_) (fun r => ?_) x <;>
  · rw [Record.onTempLost]
    split_ifs <;> rfl

/-- The port that leaves is on its way. -/
theorem leave (h : s.Fits none) (p : PortId) {y : Port} (clear : Bool) (hy : y.Sound)
    (hreqs : ∀ r ∈ y.reqs, r ∈ (s.port p).reqs) : (s.leave p y clear).Fits (some p) := by
  have moved := (h.toAway p).setPort p hy (fun r hr => h.requests p r (hreqs r hr)) (.inl rfl) (.inl rfl)
  refine moved.refit fun i => ?_
  rw [Table.get_map]
  exact refit_onTempLost p clear _

/-- A port out of ONLINE runs no job. -/
theorem idle_of_not_online (h : s.Fits none) {p : PortId} (hs : (s.port p).state ≠ .online)
    {e : EngineId} {c : Ctx} (hc : (s.engine e).ctx = some c) : c.job.key.port ≠ p :=
  fun hp => hs (hp ▸ (h.running_online hc).1)

theorem enterSyncing (h : s.Fits none) (p : PortId) (hs : (s.port p).state ≠ .online)
    (ho : (s.port p).state ≠ .offline) : (s.enterSyncing p).Fits none := by
  rw [State.enterSyncing_eq]
  have left := h.leave p (y := { s.port p with state := .syncing, bad := 0, temp := .unknown }) false
    ((h.ports p).syncing hs ((h.ports p).receiving ho) _) fun _ hr => hr
  exact (left.arrived (fun e c hc => h.idle_of_not_online hs hc) (by simp)).decide

/-- ENABLE_PORT takes an OFFLINE port to SYNCING with its receiver hunting afresh (R57). -/
theorem enable (h : s.Fits none) (p : PortId) (hs : (s.port p).state = .offline) :
    ((s.modPort p fun x => { x with rx := .hunting, char := none }).enterSyncing p).Fits none := by
  have hon : (s.port p).state ≠ .online := by simp [hs]
  rw [State.enterSyncing_eq, State.leave_modPort, State.port_modPort_self]
  have left := h.leave p (y := { s.port p with
    state := .syncing, bad := 0, temp := .unknown, rx := .hunting, char := none }) false
    ((h.ports p).syncing hon (rx := .hunting) nofun none) fun _ hr => hr
  exact (left.arrived (fun e c hc => h.idle_of_not_online hon hc) (by simp)).decide

theorem enterHeld (h : s.Fits none) (p : PortId) : (s.enterHeld p).Fits none := by
  rw [State.enterHeld_eq]
  have left := h.leave p (y := (s.port p).held) false (h.ports p).held fun r hr => by
    simp [Port.held] at hr
  have hstate : ((s.leave p (s.port p).held false).port p).state ≠ .offline := by
    simp [Port.held]
  exact ((left.raise .portHeld).abandonPort false hstate).decide

theorem servePark (h : s.Fits none) (p : PortId) (tag : Byte) (hs : (s.port p).state ≠ .offline) :
    (s.servePark p tag).Fits none := by
  rw [State.servePark_eq]
  have left := h.leave p (y := (s.port p).parks tag) false ((h.ports p).parks tag hs) fun r hr => by
    simp [Port.parks] at hr
  exact (left.abandonPort false (by simp [Port.parks])).decide

theorem expireFreshness (h : s.Fits none) (p : PortId) : (s.expireFreshness p).Fits none := by
  unfold State.expireFreshness
  split
  · exact h
  · rename_i v timer ht
    have hon := (h.ports p).online_of_fresh (by simp [ht])
    rw [State.loseTemp_eq_leave]
    have left := (h.reach timer.due).leave p (y := { s.port p with temp := .unknown }) false
      (h.ports p).unknown fun _ hr => hr
    refine (left.abandonPort true ?_).decide
    rw [State.port_leave_self]
    simp [hon]

theorem disable (h : s.Fits none) (p : PortId)
    (hm : ∀ c k, s.mb.copy = some c → c.code = 0x06 → c.key = some k → k.port ≠ p) :
    (s.disable p).Fits none := by
  rw [State.disable_eq]
  have left := h.leave p (y := (s.port p).disabled) true (h.ports p).disabled fun r hr => by
    simp [Port.disabled] at hr
  refine ((left.autoTo (l := s.autoReqs.filter fun k => k.port != p) fun k hk =>
    .inl (List.mem_filter.mp hk).1).removePortJobs (fun k hk => ?_) hm).decide
  simpa using (List.mem_filter.mp hk).2

/-- After the port's job is abandoned without END, the port has its temperature and requests as before. -/
theorem port_abandonPort {p : PortId} (h : s.Fits (some p)) :
    ((s.abandonPort p false).port p).temp = (s.port p).temp ∧
      ((s.abandonPort p false).port p).reqs = (s.port p).reqs ∧
      ((s.abandonPort p false).port p).state = (s.port p).state := by
  cases hr : s.runningPort p with
  | some x =>
    obtain ⟨e, c⟩ := x
    obtain ⟨hc, rfl⟩ := State.runningPort_eq_some hr
    obtain ⟨_, _, slots, free, heq⟩ := h.endRun hc
    have hport : (s.abandonPort c.job.key.port false).port c.job.key.port =
        (s.port c.job.key.port).withdraw := by
      rw [State.abandonPort, hr]
      change (s.endRun e c.job.key).port _ = _
      rw [heq]
      exact Table.get_set_self _ _ _
    rw [hport]
    exact ⟨rfl, rfl, rfl⟩
  | none =>
    rw [State.abandonPort, hr]
    exact ⟨rfl, rfl, rfl⟩

theorem restart (h : s.Fits none) (p : PortId) {next : PortState} {reply : State → State}
    {f : OutFrame} (hr : ∀ t : State, t.profiles = s.profiles → reply t = t.emit p f)
    (hs : (s.port p).state ≠ .offline) (hn : next ≠ .offline) (hh : next ≠ .held) :
    (s.restart p next reply).Fits none := by
  rw [State.restart_eq s p next reply f hr]
  have left := h.leave p (y := (s.port p).restarted f) true ((h.ports p).restarted f hs) fun r hr => by
    simp [Port.restarted] at hr
  have hleft : ((s.leave p ((s.port p).restarted f) true).port p).state ≠ .offline := by
    simpa [Port.restarted, Port.clearPending] using hs
  have arrived := left.abandonPort false hleft
  obtain ⟨ht, hreqs, hstate⟩ := left.port_abandonPort
  rw [State.port_leave_self] at ht hreqs
  have hunknown : ((s.port p).restarted f).temp = .unknown := rfl
  have hnone : ((s.port p).restarted f).reqs = [] := by simp [Port.restarted]
  refine (arrived.setPort p ((arrived.ports p).movesTo (hstate ▸ hleft) (ht.trans hunknown)
    (hreqs.trans hnone) hn hh) (fun r hr => ?_) (.inr fun _ => hn) (.inr fun e c hc hp => ?_)).decide
  · exact arrived.requests p r hr
  · exact absurd (ht.trans hunknown) (hp ▸ (arrived.running_online hc).2)

end State.Fits

end Sys2Proof.Machine
end

section
/-! PROOF. The joined property along received frames and transmissions (sections 3.3 and 3.4, R72). -/

namespace Sys2Proof.Machine

/-! ### A sweep keeps its job and its profile copy -/

theorem Ctx.evaluate_kept (c : Ctx) : c.evaluate.job = c.job ∧ c.evaluate.profile = c.profile := by
  unfold Ctx.evaluate
  split_ifs <;> exact ⟨rfl, rfl⟩

theorem Ctx.score_kept (c : Ctx) (counts : List Nat) :
    (c.score counts).job = c.job ∧ (c.score counts).profile = c.profile := by
  unfold Ctx.score
  simp only
  split_ifs <;> exact ⟨rfl, rfl⟩

theorem Ctx.endDelaySweep_kept (c : Ctx) :
    c.endDelaySweep.job = c.job ∧ c.endDelaySweep.profile = c.profile := by
  unfold Ctx.endDelaySweep
  simp only
  split_ifs
  · exact ⟨rfl, rfl⟩
  · exact Ctx.evaluate_kept _

theorem Ctx.takeResult_kept (c : Ctx) (counts : List Nat) :
    (c.takeResult counts).job = c.job ∧ (c.takeResult counts).profile = c.profile := by
  obtain ⟨hj, hp⟩ := c.score_kept counts
  unfold Ctx.takeResult
  simp only
  split_ifs
  · exact ⟨hj, hp⟩
  · obtain ⟨hj', hp'⟩ := Ctx.evaluate_kept
      { c.score counts with outstanding := none, timer := none,
                            refEye := Ctx.refEyes { c.score counts with outstanding := none, timer := none } }
    exact ⟨hj'.trans hj, hp'.trans hp⟩
  · obtain ⟨hj', hp'⟩ := Ctx.endDelaySweep_kept { c.score counts with outstanding := none, timer := none }
    exact ⟨hj'.trans hj, hp'.trans hp⟩

/-! ### Requests -/

/-- A well-formed TRIM for an enabled class has one delta for each lane (R54). -/
theorem State.requestFits_of_parseTrim {s : State} {p : PortId} {payload : List Byte}
    {a : ClassId × Nat × List Int}
    (h : parseTrim ((s.profiles.get p).map Profile.laneCount) payload = some a) :
    s.RequestFits p (.trim a.1 a.2.1 a.2.2) := by
  intro hen
  have hlanes : ((s.profiles.get p).map Profile.laneCount).get a.1 = (s.profile ⟨p, a.1⟩).laneCount :=
    Table.get_map _ _ _
  have hpos : (s.profile ⟨p, a.1⟩).laneCount ≠ 0 := by
    intro h0
    simp [State.classEnabled, h0] at hen
  unfold parseTrim at h
  split at h
  · split at h
    · simp at h
    · rename_i ds _ c _
      simp only [Option.ite_none_right_eq_some, Option.some.injEq] at h
      obtain ⟨hgood, rfl⟩ := h
      simp only at hlanes hpos
      rw [hlanes, if_neg hpos] at hgood
      simpa using hgood.1
  · simp at h

namespace State.Fits
variable {s : State}

theorem hunt (h : s.Fits none) (p : PortId) (hs : (s.port p).state ≠ .offline) : (s.hunt p).Fits none :=
  h.stays p (.receives hs nofun)

/-- A good frame is ignored, answered MALFORMED, or acted on in a state that fits (R67). -/
theorem takeFrame {α : Type} (h : s.Fits none) (p : PortId) (tag : Byte) (parsed : Option α)
    {act : State → α → State}
    (ha : ∀ a, parsed = some a → (s.framed p).Fits none → ((s.framed p).port p).state ≠ .offline →
      (act (s.framed p) a).Fits none) : (s.takeFrame p tag parsed act).Fits none := by
  rcases s.takeFrame_cases p tag parsed act with ⟨_, e⟩ | ⟨hs, e⟩ | ⟨hs, _, hc⟩
  · rwa [e]
  · exact e ▸ h.hunt p (by simp [hs])
  · have framed : (s.framed p).Fits none := h.stays p (.framed hs)
    have hf : ((s.framed p).port p).state ≠ .offline := by simpa [State.framed] using hs
    rcases hc with ⟨a, hp, e⟩ | e
    · exact e ▸ ha a hp framed hf
    · exact e ▸ framed.answerAtOnce p tag _ hf

theorem takeRequest (h : s.Fits none) (p : PortId) (tag : Byte) {body : ReqBody}
    (hb : s.RequestFits p body) (hs : (s.port p).state ≠ .offline) :
    (s.takeRequest p tag body).Fits none := by
  unfold State.takeRequest State.queueRequest
  split_ifs with hon hroom
  · obtain ⟨h1, _, _, h4, h5, h6, h7, h8⟩ := h.ports p
    refine h.setPort p ⟨h1, ?_, fun _ => hon, h4, h5, h6, h7, h8⟩ (fun r hr => ?_) (.inr id)
      (.inr fun e c hc hp => hp ▸ h.running_online hc)
    · rw [List.length_append]
      exact hroom
    · rcases List.mem_append.mp hr with hr | hr
      · exact h.requests p r hr
      · exact List.mem_singleton.mp hr ▸ hb
  · exact h.answerAtOnce p tag _ hs
  · exact h.answerAtOnce p tag _ hs

/-- A port that runs nothing comes to ONLINE (R58, R61). -/
theorem comesOnline (h : s.Fits none) (p : PortId) (hs : (s.port p).state ≠ .offline)
    (hon : (s.port p).state ≠ .online) :
    (s.modPort p fun x => { x with state := .online }).Fits none :=
  h.setPort p ((h.ports p).movesTo hs ((h.ports p).unknown_of_not_online hon)
    ((h.ports p).reqs_of_not_online hon) nofun nofun) (fun r hr => h.requests p r hr)
    (.inr fun _ => nofun) (.inr fun _ _ hc hp => absurd hp (h.idle_of_not_online hon hc))

theorem takeHello (h : s.Fits none) (p : PortId) (tag version : Byte)
    (hs : (s.port p).state ≠ .offline) : (s.takeHello p tag version).Fits none := by
  unfold State.takeHello State.helloSyncing State.helloRestart
  split_ifs with hsync
  · have welcomed : (s.welcome p tag).Fits none := h.emit p _ hs
    have hstate : ((s.welcome p tag).port p).state = .syncing := by
      simpa [State.welcome, State.emit] using hsync
    exact (welcomed.comesOnline p (by simp [hstate]) (by simp [hstate])).enteredOnline
  · exact h.answerAtOnce p tag _ hs
  · have restarted := h.restart p (next := .online) (reply := fun t => t.welcome p tag)
      (f := .welcome tag ((s.profiles.get p).rows.map fun x => (x.laneCount, x.refEnable)))
      (fun t ht => by rw [State.welcome, ht]) hs nofun nofun
    exact restarted.enteredOnline
  · exact h.restart p (reply := fun t => t.answer p tag .badVersion none none) (fun _ _ => rfl) hs
      nofun nofun

theorem handTest (h : s.Fits none) (p : PortId) (v : Int) : (s.handTest p v).Fits none := by
  unfold State.handTest
  split
  · exact h.modEngine _ rfl
  · exact h

theorem takeTemp (h : s.Fits none) (p : PortId) (v : Int) : (s.takeTemp p v).Fits none := by
  unfold State.takeTemp
  split_ifs with hv
  · have fresh : (s.modPort p fun x =>
        { x with temp := .fresh v ⟨s.now, ms (10 * s.freshTime)⟩ }).Fits none := by
      refine h.stays p ⟨fun ⟨_, hrest⟩ => ⟨fun _ => hv.1, hrest⟩, rfl, fun _ => nofun, fun _ => id⟩
    exact ((fresh.evaluate _).handTest p v).decide
  · exact h

theorem takeWake (h : s.Fits none) (p : PortId) (tag : Byte) (hs : (s.port p).state ≠ .offline) :
    (s.takeWake p tag).Fits none := by
  unfold State.takeWake
  split
  · rename_i hp
    have answered := h.answer p tag .done none none hs
    have hstate : ((s.answer p tag .done none none).port p).state = .parked := by
      simpa [State.answer, State.emit] using hp
    exact (answered.comesOnline p (by simp [hstate]) (by simp [hstate])).enteredOnline
  · exact h.answerAtOnce p tag _ hs
  · exact h.answerAtOnce p tag _ hs
  · exact h
  · exact h

theorem takeResync (h : s.Fits none) (p : PortId) (tag : Byte) (payload : List Byte) :
    (s.takeResync p tag payload).Fits none := by
  unfold State.takeResync
  split_ifs with hr
  · have hheld : ((s.hunt p).port p).state = .held := by simpa [State.hunt] using hr.1
    exact (h.hunt p (by simp [hr.1])).enterSyncing p (by simp [hheld]) (by simp [hheld])
  · exact h.takeFrame p tag _ fun _ _ framed _ => framed

theorem takeReady (h : s.Fits none) (p : PortId) (id : Byte) : (s.takeReady p id).Fits none := by
  unfold State.takeReady
  split
  · rename_i e c hr
    split_ifs
    · exact h.proceed (State.runningPort_eq_some hr).1 rfl rfl
    · exact h
  · exact h

theorem takeResult (h : s.Fits none) (p : PortId) (id : Byte) (counts : List Nat) :
    (s.takeResult p id counts).Fits none := by
  unfold State.takeResult
  split
  · rename_i e c hr
    obtain ⟨hj, hp⟩ := c.takeResult_kept counts
    split_ifs
    · exact h.proceed (State.runningPort_eq_some hr).1 hj hp
    · exact h
  · exact h

theorem applyPolicy (h : s.Fits none) (p : PortId) (hs : (s.port p).state ≠ .offline)
    (hh : (s.port p).state ≠ .held) : (s.applyPolicy p).Fits none := by
  unfold State.applyPolicy
  simp only
  split_ifs with hb
  · have counted : (s.port p).Stays { s.port p with rx := .hunting, bad := (s.port p).bad + 1 } := by
      refine ⟨fun ⟨h1, h2, h3, _, _, _, h7, h8⟩ => ?_, rfl, id, fun _ => id⟩
      exact ⟨h1, h2, h3, hb.2, fun ho => (ho.elim hh hs).elim, by simp [hs], h7, h8⟩
    exact h.stays p (counted.trans (.placeNak hs))
  · exact h.enterHeld p

theorem takeBad (h : s.Fits none) (p : PortId) : (s.takeBad p).Fits none := by
  unfold State.takeBad
  split
  · exact h
  · rename_i hs
    exact h.hunt p (by simp [hs])
  all_goals
    rename_i hs
    exact h.applyPolicy p (by simp [hs]) (by simp [hs])

/-! ### Transmission -/

theorem reportSent (h : s.Fits none) (e : EngineId) (id : Byte) : (s.reportSent e id).Fits none := by
  unfold State.reportSent
  split
  · exact h
  · rename_i c hc
    simp only
    split_ifs
    · exact h
    · exact h.setCtx hc rfl rfl
    · exact h.proceed hc rfl rfl

theorem frameSent (h : s.Fits none) (p : PortId) : (s.frameSent p).Fits none := by
  have sent : (s.modPort p Port.frameSent).Fits none := h.stays p .frameSent
  unfold State.frameSent
  simp only
  split
  · exact h
  · split
    · exact sent.reportSent _ _
    · exact sent

theorem tick (h : s.Fits none) : s.tick.Fits none :=
  (h.allStay (u := s.ports.map Port.startTx) fun p => by
    rw [Table.get_map]
    exact .startTx).frame rfl rfl rfl rfl rfl rfl rfl

end State.Fits

end Sys2Proof.Machine
end

section
/-! PROOF. The joined property along the store operations of services and jobs (chapters 4 to 7). -/

namespace Sys2Proof.Machine

/-! ### Lane lists keep their shape (R5) -/

theorem trimmedLanes_shape {lanes : List LaneEntry} {deltas : List Int}
    (h : deltas.length = lanes.length) :
    (trimmedLanes lanes deltas).map (fun l => l.ref.isSome) = lanes.map fun l => l.ref.isSome := by
  induction lanes generalizing deltas with
  | nil => simp [trimmedLanes]
  | cons l lanes ih =>
    cases deltas with
    | nil => simp at h
    | cons d deltas =>
      have htail := ih (deltas := deltas) (by simpa using h)
      simp only [trimmedLanes] at htail
      simp [trimmedLanes, LaneEntry.trimmed, htail]

theorem Ctx.length_commitLanes (c : Ctx) (old : Option (List LaneEntry)) :
    (c.commitLanes old).length = c.profile.laneCount := by simp [Ctx.commitLanes]

theorem Ctx.commitLane_ref (c : Ctx) (old : Option (List LaneEntry)) (i : Nat) :
    (c.commitLane old i).ref.isSome = c.profile.refEnable := by
  unfold Ctx.commitLane
  simp only
  split <;> split_ifs <;> simp_all

theorem Ctx.lanesMatch_commitLanes (c : Ctx) (old : Option (List LaneEntry)) :
    lanesMatch c.profile.refEnable (c.commitLanes old) = true := by
  simp [lanesMatch, Ctx.commitLanes, Ctx.commitLane_ref]

namespace State.Fits
variable {s : State}

/-! ### Services -/

/-- A served request fits, and its port is ONLINE (R70, R76). -/
theorem serve {α : Type} (h : s.Fits none) (p : PortId) (kind : ReqBody → Option α)
    {f : State → Byte → α → State}
    (hf : ∀ t tag a body, t.Fits none → (t.port p).state ≠ .offline → kind body = some a →
      t.RequestFits p body → (f t tag a).Fits none) : (s.serve p kind f).Fits none := by
  rcases s.serve_cases p kind f with e | ⟨tag, body, a, ⟨⟨rest, hreqs⟩, _⟩, hk, e⟩
  · rwa [e]
  · have taken : (s.takeHead p).Fits none :=
      (h.stays p (f := fun x => { x with reqs := x.reqs.tail }) .tail).granted _
    have honline : (s.port p).state = .online := by
      by_contra ho
      simp [(h.ports p).reqs_of_not_online ho] at hreqs
    have hport : (s.takeHead p).port p = { s.port p with reqs := (s.port p).reqs.tail } :=
      Table.get_set_self _ _ _
    rw [e]
    exact hf _ tag a body taken (by simp [hport, honline]) hk
      (h.requests p ⟨tag, body⟩ (by simp [hreqs]))

theorem ifEnabled (h : s.Fits none) {k : Key} (tag : Byte) {f : State → State}
    (hs : (s.port k.port).state ≠ .offline) (hf : s.classEnabled k = true → (f s).Fits none) :
    (s.ifEnabled k tag f).Fits none := by
  unfold State.ifEnabled
  split_ifs with hk
  · exact hf hk
  · exact h.answer k.port tag _ _ _ hs

theorem port_touch (s : State) (i : SlotId) (p : PortId) : (s.touch i).port p = s.port p := by
  obtain ⟨f, n, he⟩ := s.advanceStamp_eq
  rw [State.touch, he]
  rfl

theorem serveLookup (h : s.Fits none) (k : Key) (tag : Byte)
    (hs : (s.port k.port).state ≠ .offline) : (s.serveLookup k tag).Fits none := by
  unfold State.serveLookup
  split
  · exact (h.touch _).emit k.port _ (by rwa [port_touch])
  · exact h.answer k.port tag _ _ _ hs

theorem serveApplied (h : s.Fits none) (k : Key) (tag : Byte) (g : Nat)
    (hs : (s.port k.port).state ≠ .offline) : (s.serveApplied k tag g).Fits none := by
  unfold State.serveApplied
  split
  · rename_i i r hr
    have touched := State.slot_touch (State.recordOf_eq_some.mp hr).2
    have hport : ((s.touch i).port k.port).state ≠ .offline := by rwa [port_touch]
    simp only
    split_ifs
    · rw [touched]
      exact ((h.touch i).record (q := { r with stamp := s.advanceStamp.stamp, applied := some g }) touched
        rfl rfl rfl).answer k.port tag _ _ _ hport
    · exact (h.touch i).answer k.port tag _ _ _ hport
  · exact h.answer k.port tag _ _ _ hs

theorem serveTrim (h : s.Fits none) (k : Key) (tag : Byte) (g : Nat) (deltas : List Int)
    (hs : (s.port k.port).state ≠ .offline) (hd : deltas.length = (s.profile k).laneCount) :
    (s.serveTrim k tag g deltas).Fits none := by
  unfold State.serveTrim
  split
  · rename_i i r hr
    obtain ⟨hslotOf, hslot⟩ := State.recordOf_eq_some.mp hr
    have hkey : r.key = k := by
      have := State.key_of_slotOf hslotOf
      rw [hslot] at this
      exact Option.some_inj.mp this
    have hlen : deltas.length = r.lanes.length := by
      obtain ⟨hshape, hlanes⟩ := h.slots i
      rw [(hlanes r hslot).1, hd, ← hkey]
      exact ((hshape r.key (by rw [hslot]; rfl)).1.symm.trans (by rw [hslot]; rfl))
    have touched := State.slot_touch hslot
    have hport : ((s.touch i).port k.port).state ≠ .offline := by rwa [port_touch]
    simp only
    split
    · rw [touched]
      exact ((h.touch i).record (q := Record.trimmed { r with stamp := s.advanceStamp.stamp } deltas)
        touched rfl rfl (trimmedLanes_shape hlen)).answer k.port tag _ _ _ hport
    · exact (h.touch i).answer k.port tag _ _ _ hport
    · exact ((h.touch i).answer k.port tag _ _ _ hport).setCondition i .stale
    · exact (h.touch i).answer k.port tag _ _ _ hport
  · exact h.answer k.port tag _ _ _ hs

theorem serveRetire (h : s.Fits none) (k : Key) (tag : Byte)
    (hs : (s.port k.port).state ≠ .offline) : (s.serveRetire k tag).Fits none := by
  unfold State.serveRetire
  split
  · split_ifs
    · exact h.answer k.port tag _ _ _ hs
    · exact ((h.releaseSlot _).answer k.port tag _ _ _ hs).cancelJobs k
  · exact (h.answer k.port tag _ _ _ hs).cancelJobs k

theorem port_clearHoldOff (s : State) (k : Key) : (s.clearHoldOff k).port = s.port := by
  unfold State.clearHoldOff
  split <;> rfl

theorem classEnabled_clearHoldOff (s : State) (k : Key) :
    (s.clearHoldOff k).classEnabled = s.classEnabled := by
  unfold State.clearHoldOff
  split <;> rfl

theorem enqueueCleared (h : s.Fits none) (k : Key) (o : JobOrigin) (u : Urgency)
    (hk : s.classEnabled k = true) (hs : (s.port k.port).state ≠ .offline) :
    ((s.clearHoldOff k).enqueue k o u).1.Fits none :=
  (h.clearHoldOff k).enqueue k o u (by rwa [classEnabled_clearHoldOff]) (by rwa [port_clearHoldOff])

theorem serveTrain (h : s.Fits none) (k : Key) (tag : Byte) (u : Urgency)
    (hk : s.classEnabled k = true) (hs : (s.port k.port).state ≠ .offline) :
    (s.serveTrain k tag u).Fits none := by
  refine (h.enqueueCleared k .port u hk hs).answer k.port tag _ _ _ ?_
  rw [State.enqueue_eq]
  change ((s.clearHoldOff k).port k.port).state ≠ _
  rwa [port_clearHoldOff]

/-! ### AUTO requests, tests, starts and rescans -/

theorem enqueueAuto (h : s.Fits none) (k : Key) (hk : s.classEnabled k = true)
    (hs : (s.port k.port).state ≠ .offline) : (s.enqueueAuto k).Fits none := by
  have enqueued := h.enqueue k .auto .routine hk hs
  unfold State.enqueueAuto
  simp only
  split_ifs
  · exact enqueued.raise _
  · exact enqueued

theorem takeAutoRequest (h : s.Fits none) : s.takeAutoRequest.Fits none := by
  unfold State.takeAutoRequest
  split
  · exact h
  · rename_i k rest hl
    obtain ⟨hk, hs⟩ := h.named (k := k) (.inr (.inl (by simp [hl])))
    have taken : State.Fits none { s with autoReqs := rest } :=
      h.autoTo fun j hj => .inl (by simp [hl, hj])
    simp only
    split_ifs
    · exact taken
    · exact taken.enqueueAuto k hk hs

theorem takeTest (h : s.Fits none) (e : EngineId) : (s.takeTest e).Fits none := by
  unfold State.takeTest State.onMoved
  split
  · exact h
  · rename_i test rest _
    have taken : (s.modEngine e fun x => { x with tests := rest }).Fits none := h.modEngine e rfl
    simp only
    split
    · exact taken
    · rename_i c hc
      have hc' : ((s.modEngine e fun x => { x with tests := rest }).engine e).ctx = some c := by
        simpa using hc
      split_ifs
      · exact taken.abandon hc' true 1 fun _ => taken.not_offline_of_running hc'
      · exact taken
      · exact taken.setCtx hc' rfl rfl
      · exact taken

theorem startable_eq_some {j : Job} {v : Int} (h : s.startable j = some v) :
    (s.port j.key.port).state = .online ∧ (s.port j.key.port).temp ≠ .unknown ∧
      ∀ x ∈ s.running, x.key.port ≠ j.key.port := by
  unfold State.startable at h
  split at h
  · rename_i ht
    simp only [Option.ite_none_right_eq_some] at h
    obtain ⟨⟨hon, hidle, _⟩, _⟩ := h
    refine ⟨hon, by simp [ht], fun x hx hp => ?_⟩
    obtain ⟨e, c, hc, rfl⟩ := State.mem_running.mp hx
    have hnone := State.runningWhere_eq_none.mp (Option.isNone_iff_eq_none.mp hidle) e c hc
    simp [hp] at hnone
  · simp at h

theorem decideStart (h : s.Fits none) : s.decideStart.Fits none := by
  have begun : State.Fits none { s with decision := false } := h.frame rfl rfl rfl rfl rfl rfl rfl
  unfold State.decideStart
  split_ifs
  · simp only
    split
    · rename_i e j v he hj
      split_ifs
      · obtain ⟨x, hx, hv⟩ := List.exists_of_findSome?_eq_some hj
        obtain ⟨w, hw, hjv⟩ := Option.map_eq_some_iff.mp hv
        cases hjv
        obtain ⟨hon, htemp, hport⟩ := startable_eq_some hw
        exact begun.startJob v (by simpa [State.idleEngine] using List.find?_some he) hx hport hon htemp
      · exact begun
    · exact begun
  · exact h

/-- The walk enqueues jobs of records, whose classes are enabled, at ports that are not OFFLINE. -/
theorem rescanWalk (h : s.Fits none) (l : List Record) (hl : ∀ r ∈ l, s.classEnabled r.key = true) :
    (s.rescanWalk l).Fits none := by
  induction l generalizing s with
  | nil => exact h
  | cons r l ih =>
    have hrest : ∀ q ∈ l, s.classEnabled q.key = true := fun q hq => hl q (List.mem_cons_of_mem _ hq)
    rw [State.rescanWalk]
    split_ifs with hw
    · exact h
    · have hs : (s.port r.key.port).state ≠ .offline := by
        simp only [State.rescanWants, Bool.and_eq_true, bne_iff_ne] at hw
        exact hw.1.1.2
      refine ih (h.enqueue r.key .auto .routine (hl r (List.mem_cons_self ..)) hs) fun q hq => ?_
      rw [State.enqueue_eq]
      exact hrest q hq
    · exact ih h hrest

theorem rescan (h : s.Fits none) : s.rescan.Fits none := by
  unfold State.rescan
  split
  · exact h
  · rename_i n _
    have counted : State.Fits none { s with rescans := n } := h.frame rfl rfl rfl rfl rfl rfl rfl
    refine (counted.rescanWalk _ fun r hr => ?_).decide
    obtain ⟨i, hi⟩ := State.mem_records.mp hr
    exact h.enabled_of_slot (i := i) (by simp [hi, Slot.key?])

/-! ### The store operations of a job -/

theorem onRequest (h : s.Fits none) (e : EngineId) {f : Ctx → StoreRequest → State}
    (hf : ∀ c q, (s.engine e).ctx = some c → (f c q).Fits none) : (s.onRequest e f).Fits none := by
  rcases s.onRequest_cases e f with he | ⟨c, q, hc, _, he⟩
  · rwa [he]
  · exact he ▸ hf c q hc

theorem reserveSlot (h : s.Fits none) {i : SlotId} {k : Key} (hk : s.classEnabled k = true)
    (hn : s.slotOf k = none) (hr : s.Runs k) : (s.reserveSlot i k).Fits none := by
  have reserved : (s.setSlot i (.reserved k (s.profile k).laneCount)).Fits none := by
    refine h.setSlot i ⟨?_, nofun⟩ (fun k' j hk' hj => ?_) ?_
    · rintro _ ⟨⟩
      exact ⟨rfl, hk⟩
    · cases hk'
      exact absurd hj (State.slotOf_eq_none.mp hn j)
    · rintro _ _ ⟨⟩
      exact hr
  exact reserved.frame rfl rfl rfl rfl rfl rfl rfl

theorem announce (h : s.Fits none) {e : EngineId} {c : Ctx} (hc : (s.engine e).ctx = some c)
    (prior : Option (List PriorLane)) : (s.announce e c prior).Fits none := by
  unfold State.announce
  refine h.placeDirective hc ?_ ?_ false <;> rfl

theorem reserve (h : s.Fits none) {e : EngineId} {c : Ctx} (hc : (s.engine e).ctx = some c) :
    (s.reserve e c).Fits none := by
  unfold State.reserve State.endStoreFull
  simp only
  split
  · exact h.announce hc _
  · exact h
  · rename_i hn
    split
    · rename_i i t ha
      obtain ⟨heq, _⟩ := State.allocate_spec ha
      have hct : (t.engine e).ctx = some c := by rw [heq]; exact hc
      have hkt : t.classEnabled c.job.key = true := by
        rw [heq]
        exact (h.named (State.names_of_running hc)).1
      have reserved := (h.allocate ha).reserveSlot (i := i) hkt (State.slotOf_allocate ha hn)
        ⟨e, c, hct, rfl⟩
      exact reserved.announce (show ((t.reserveSlot i c.job.key).engine e).ctx = some c from hct) none
    · have hraised : ((s.raise .storeFull).engine e).ctx = some c := hc
      exact ((h.raise _).endJob hraised _ _).raise _

/-- A record with the lanes of a commit has the shape its profile asks for (R5, R136). -/
theorem slotFits_of_commitLanes {r : Record} {c : Ctx} {old : Option (List LaneEntry)}
    (hk : r.key = c.job.key) (hn : r.laneCount = (s.profile c.job.key).laneCount)
    (hl : r.lanes = c.commitLanes old) (hen : s.classEnabled c.job.key = true)
    (hcopy : c.profile = s.profile c.job.key) : s.SlotFits (.occupied r) := by
  refine ⟨?_, ?_⟩
  · rintro _ ⟨⟩
    rw [hk]
    exact ⟨hn, hen⟩
  · rintro _ ⟨⟩
    rw [hl, Ctx.length_commitLanes, hk, hn, ← hcopy]
    exact ⟨rfl, c.lanesMatch_commitLanes old⟩

/-- A slot keeps its key. -/
theorem setSlot_same (h : s.Fits none) {i : SlotId} {k : Key} {r : Record}
    (hi : (s.slot i).key? = some k) (hr : r.key = k) (hx : s.SlotFits (.occupied r)) :
    (s.setSlot i (.occupied r)).Fits none := by
  refine h.setSlot i hx (fun k' j hk' hj => ?_) nofun
  have he : k = k' := hr.symm.trans (Option.some_inj.mp hk')
  exact (h.one i j (by simp [hi]) (hi.trans (he ▸ hj.symm))).symm

theorem commit (h : s.Fits none) {e : EngineId} {c : Ctx} (hc : (s.engine e).ctx = some c) :
    (s.commit e c).Fits none := by
  have hcopy := h.copies e c hc
  unfold State.commit
  simp only
  split
  · exact h
  · rename_i i hi
    have hkey := State.key_of_slotOf hi
    obtain ⟨hn, hen⟩ := (h.slots i).1 c.job.key hkey
    split
    · exact h
    · rename_i k n hx
      obtain ⟨f, m, hadv⟩ := s.advanceStamp_eq
      obtain ⟨hprof, hclass⟩ := State.classEnabled_congr (s := s) (t := s.advanceStamp) (by rw [hadv])
      have hct : (s.advanceStamp.engine e).ctx = some c := by
        rw [hadv]
        exact hc
      have hki : (s.advanceStamp.slot i).key? = some c.job.key := by
        obtain ⟨g, hg⟩ := s.slot_advanceStamp
        rw [hg, Slot.key?_mapRecord_stamp, hkey]
      rw [hx] at hn
      have created := h.advanceStamp.setSlot_same (r := c.newRecord s.advanceStamp.stamp s.now n) hki rfl
        (slotFits_of_commitLanes rfl (hprof ▸ hn) rfl (hclass ▸ hen) (hprof ▸ hcopy))
      exact created.endJob hct _ _
    · rename_i r hx
      rw [hx] at hkey hn
      have hk : (c.rewrite r s.now).key = c.job.key := Option.some_inj.mp hkey
      have rewritten := h.setSlot_same (i := i) (by rw [hx, hkey]) hk
        (slotFits_of_commitLanes hk hn rfl hen hcopy)
      exact rewritten.endJob (e := e) (c := c) hc _ _

theorem engine_setHoldOff (s : State) (k : Key) : (s.setHoldOff k).engine = s.engine := by
  unfold State.setHoldOff
  split <;> rfl

theorem endFailed (h : s.Fits none) {e : EngineId} {c : Ctx} (hc : (s.engine e).ctx = some c)
    (o : JobOutcome) : (s.endFailed e c o).Fits none :=
  ((h.setHoldOff c.job.key).endJob (by rwa [engine_setHoldOff]) o none).raise _

/-! ### Timers -/

theorem expireAge (h : s.Fits none) (i : SlotId) : (s.expireAge i).Fits none := by
  unfold State.expireAge
  split
  · rename_i r hr
    have aged := (h.reach (r.ageSince + ms Config.minuteMs)).record (q := r.aged) hr rfl rfl rfl
    simp only
    split_ifs
    · exact aged
    · exact aged.setCondition i .stale
  · exact h
  · exact h

theorem expireTrial (h : s.Fits none) (e : EngineId) : (s.expireTrial e).Fits none := by
  unfold State.expireTrial
  split
  · exact h
  · rename_i c hc
    split
    · exact h
    · rename_i timer _
      have hct : ((s.reach timer.due).engine e).ctx = some c := hc
      simp only
      split_ifs
      · exact (h.reach _).setCtx hct rfl rfl
      · exact (h.reach _).placeDirective hct rfl rfl true

theorem departStart (h : s.Fits none) : s.departStart.Fits none := by
  unfold State.departStart
  split
  · exact h
  · exact h.frame rfl rfl rfl rfl rfl rfl rfl

theorem expireSpaceAny (h : s.Fits none) : s.expireSpaceAny.Fits none := by
  unfold State.expireSpaceAny
  split
  · exact h
  · exact h.frame rfl rfl rfl rfl rfl rfl rfl

theorem expireSpaceGroup (h : s.Fits none) (g : GroupId) : (s.expireSpaceGroup g).Fits none := by
  unfold State.expireSpaceGroup
  split
  · exact h
  · exact h.frame rfl rfl rfl rfl rfl rfl rfl

end State.Fits

end Sys2Proof.Machine
end

section
/-! PROOF. The joined property along the mailbox commands. -/

namespace Sys2Proof.Machine

/-! ### The lanes a buffer carries (R176, R191) -/

theorem allSome_eq_some {α : Type} {l : List (Option α)} {xs : List α} (h : allSome l = some xs) :
    l = xs.map some := by
  induction l generalizing xs with
  | nil =>
    cases h
    rfl
  | cons a l ih =>
    cases a with
    | none => simp [allSome] at h
    | some a =>
      obtain ⟨ys, hys, rfl⟩ := Option.map_eq_some_iff.mp h
      rw [ih hys, List.map_cons]

theorem bufferLane_ref {m : Memory} {i : Nat} {l : LaneEntry} (h : bufferLane m i = some l) :
    l.ref.isSome = bufferRef m := by
  unfold bufferLane at h
  obtain ⟨c, _, rfl⟩ := Option.map_eq_some_iff.mp h
  simp only
  split_ifs with hr <;> simp [hr]

theorem bufferLaneList_shape {m : Memory} {limit : Nat} {lanes : List LaneEntry}
    (h : bufferLaneList m limit = some lanes) :
    lanes.length = bufferLanes m ∧ lanesMatch (bufferRef m) lanes = true := by
  have hl := allSome_eq_some h
  refine ⟨by simpa using (congrArg List.length hl).symm, ?_⟩
  simp only [lanesMatch, List.all_eq_true, beq_iff_eq]
  intro l hmem
  have : some l ∈ lanes.map some := List.mem_map_of_mem hmem
  rw [← hl] at this
  obtain ⟨i, _, hi⟩ := List.mem_map.mp this
  exact bufferLane_ref (Option.filter_eq_some_iff.mp hi).1

/-! ### Profiles replaced -/

theorem State.profile_setProfile (s : State) (k k' : Key) (p : Profile) :
    (s.setProfile k p).profile k' = if k = k' then p else s.profile k' := by
  simp only [State.profile, State.setProfile, Table.get_set]
  by_cases hp : k.port = k'.port
  · rw [if_pos hp, Table.get_set]
    by_cases hc : k.cls = k'.cls
    · rw [if_pos hc, if_pos (show k = k' by cases k; cases k'; simp_all)]
    · rw [if_neg hc, if_neg (fun he => hc (by rw [he])), hp]
  · rw [if_neg hp, if_neg fun he => hp (by rw [he])]

theorem State.profile_setProfile_of_ne (s : State) {k k' : Key} (p : Profile) (h : k ≠ k') :
    (s.setProfile k p).profile k' = s.profile k' := by
  rw [State.profile_setProfile, if_neg h]

namespace State.Fits
variable {s : State}

/-- Nothing but a record speaks of the profile of a port that is OFFLINE; the key's record, where it has
one, has the new shape too (R161 to R163). -/
theorem setProfile (h : s.Fits none) {k : Key} {p : Profile} (hs : (s.port k.port).state = .offline)
    (hshape : (∀ i, (s.slot i).key? ≠ some k) ∨
      (p.laneCount = (s.profile k).laneCount ∧ p.refEnable = (s.profile k).refEnable)) :
    (s.setProfile k p).Fits none := by
  have other : ∀ k', (s.port k'.port).state ≠ .offline →
      (s.setProfile k p).profile k' = s.profile k' := fun k' hk' =>
    s.profile_setProfile_of_ne p fun he => hk' (he ▸ hs)
  have slot : ∀ i k', (s.slot i).key? = some k' →
      ((s.setProfile k p).profile k').laneCount = (s.profile k').laneCount ∧
      ((s.setProfile k p).profile k').refEnable = (s.profile k').refEnable := fun i k' hi => by
    by_cases hk : k = k'
    · rw [State.profile_setProfile, if_pos hk, ← hk]
      exact hshape.resolve_left fun hno => hno i (hk ▸ hi)
    · rw [s.profile_setProfile_of_ne p hk]
      exact ⟨rfl, rfl⟩
  have enabled : ∀ k', ((s.setProfile k p).profile k').laneCount = (s.profile k').laneCount →
      (s.setProfile k p).classEnabled k' = s.classEnabled k' := fun k' he => by
    simp only [State.classEnabled, he]
  refine ⟨h.one, h.queue, h.ports, h.runners, fun i => ⟨fun k' hi => ?_, fun r hr => ?_⟩, h.owned,
    fun e c hc => ?_, fun q r hr => ?_, fun k' hk => ?_⟩
  · have hlanes := (slot i k' hi).1
    rw [enabled k' hlanes, hlanes]
    exact (h.slots i).1 k' hi
  · have hi : (s.slot i).key? = some r.key := congrArg Slot.key? hr
    rw [(slot i _ hi).2]
    exact (h.slots i).2 r hr
  · rw [other _ (h.not_offline_of_running hc)]
    exact h.copies e c hc
  · have hq : (s.port q).state ≠ .offline := by
      intro ho
      have hnone := (h.ports q).reqs_of_not_online (by simp [ho])
      simp [show (s.port q).reqs = [] from hnone, show ((s.setProfile k p).port q).reqs = (s.port q).reqs
        from rfl] at hr
    have fits := h.requests q r hr
    cases hb : r.body with
    | trim c g deltas =>
      rw [hb] at fits
      intro hen
      rw [other ⟨q, c⟩ hq]
      exact fits (by rwa [enabled ⟨q, c⟩ (by rw [other ⟨q, c⟩ hq])] at hen)
    | lookup _ => trivial
    | applied _ _ => trivial
    | train _ _ => trivial
    | retire _ => trivial
    | park => trivial
  · obtain ⟨hen, hoff⟩ := h.named hk
    rw [enabled k' (by rw [other k' hoff])]
    exact ⟨hen, fun _ => hoff⟩

theorem port_notify_state (s : State) (r : Record) (kind : NoticeKind) (gen : Nat) (p : PortId) :
    ((s.notify r kind gen).port p).state = (s.port p).state := by
  unfold State.notify
  split_ifs
  · rw [State.port_modPort]
    split_ifs with hp
    · rw [Port.placeNotice_state, hp]
    · rfl
  · rfl

theorem carrySetProfile (h : s.Fits none) (c : CmdCopy) (k : Key) :
    (s.carrySetProfile c k).Fits none := by
  unfold State.carrySetProfile
  split_ifs with hs
  · exact h.endCommand _ _
  · rw [not_not] at hs
    split
    · exact h.endCommand _ _
    · rename_i p _
      simp only
      split_ifs with hshape
      · split
        · rename_i i r hr
          obtain ⟨hslotOf, hslot⟩ := State.recordOf_eq_some (s := s).mp hr
          have hkey := State.key_of_slotOf hslotOf
          have released : ((s.releaseSlot i).setProfile k p).Fits none := by
            refine (h.releaseSlot i).setProfile hs (.inl fun j => ?_)
            rw [State.slot_releaseSlot]
            split_ifs with hij
            · simp [Slot.key?]
            · intro hj
              exact hij (h.one i j (by simp [hkey]) (hkey.trans hj.symm))
          exact ((released.notify r .retired r.gen).cancelJobs k).endCommand _ _
        · rename_i hr
          refine (h.setProfile hs (.inl fun i hi => ?_)).endCommand _ _
          obtain ⟨n, hn⟩ := State.recordOf_eq_none (s := s).mp hr i (State.slotOf_eq h.one hi)
          obtain ⟨e, x, hx, hxk⟩ := h.owned i k n hn
          exact h.not_offline_of_running hx (hxk ▸ hs)
      · simp only [not_or, not_not] at hshape
        exact (h.setProfile hs (.inr hshape)).endCommand _ _

/-! ### PRELOAD_RECORD (R23, R176) -/

/-- A record with the lanes of a buffer that matches its profile has the shape it asks for (R5). -/
theorem slotFits_of_buffer {m : Memory} {limit : Nat} {k : Key} {r : Record} (hk : r.key = k)
    (hn : r.laneCount = (s.profile k).laneCount) (hl : bufferLaneList m limit = some r.lanes)
    (hb : bufferLanes m = (s.profile k).laneCount) (hf : bufferRef m = (s.profile k).refEnable)
    (hen : s.classEnabled k = true) : s.SlotFits (.occupied r) := by
  obtain ⟨hlen, hmatch⟩ := bufferLaneList_shape hl
  refine ⟨?_, ?_⟩
  · rintro _ ⟨⟩
    rw [hk]
    exact ⟨hn, hen⟩
  · rintro _ ⟨⟩
    rw [hlen, hb, hn, hk, ← hf]
    exact ⟨rfl, hmatch⟩

theorem preloadOver (h : s.Fits none) {m : Memory} {limit : Nat} {lanes : List LaneEntry} {i : SlotId}
    {r : Record} (hr : s.slot i = .occupied r) (hl : bufferLaneList m limit = some lanes)
    (hb : bufferLanes m = (s.profile r.key).laneCount)
    (hf : bufferRef m = (s.profile r.key).refEnable) : (s.preloadOver m lanes i r).Fits none := by
  have hkey : (s.slot i).key? = some r.key := by rw [hr, Slot.key?]
  obtain ⟨hn, hen⟩ := (h.slots i).1 r.key hkey
  rw [hr] at hn
  have written : ∀ c, (s.setSlot i
      (.occupied { r.advance.preloaded m lanes s.now with cond := c })).Fits none := fun c =>
    h.setSlot_same hkey rfl (slotFits_of_buffer (k := r.key) rfl hn hl hb hf hen)
  unfold State.preloadOver
  simp only
  split_ifs
  · refine ((written _).notify r _ _).staleRequest _ ?_
    rw [State.notify_eq]
    exact hen
  · exact (written _).notify r _ _

theorem preloadNew (h : s.Fits none) {m : Memory} {limit : Nat} {lanes : List LaneEntry} {i : SlotId}
    {k : Key} (hk : s.slotOf k = none) (hl : bufferLaneList m limit = some lanes)
    (hb : bufferLanes m = (s.profile k).laneCount) (hf : bufferRef m = (s.profile k).refEnable)
    (hen : s.classEnabled k = true) : (s.preloadNew m lanes i k).Fits none := by
  obtain ⟨f, n, hadv⟩ := s.advanceStamp_eq
  obtain ⟨hprof, hclass⟩ := State.classEnabled_congr (s := s) (t := s.advanceStamp) (by rw [hadv])
  have created : ∀ r : Record, r.key = k → r.laneCount = (s.profile k).laneCount → r.lanes = lanes →
      (s.advanceStamp.takeSlot i (.occupied r) (s.profile k).laneCount).Fits none := by
    intro r hkey hn hlanes
    have stored : (s.advanceStamp.setSlot i (.occupied r)).Fits none := by
      refine h.advanceStamp.setSlot i (slotFits_of_buffer hkey (hprof ▸ hn) (hlanes ▸ hl) (hprof ▸ hb)
        (hprof ▸ hf) (hclass ▸ hen)) (fun k' j hk' hj => ?_) nofun
      have he : k = k' := hkey.symm.trans (Option.some_inj.mp hk')
      obtain ⟨g, hg⟩ := s.slot_advanceStamp
      rw [hg, Slot.key?_mapRecord_stamp, ← he] at hj
      exact absurd hj (State.slotOf_eq_none.mp hk j)
    exact stored.frame rfl rfl rfl rfl rfl rfl rfl
  unfold State.preloadNew
  simp only
  split_ifs
  · refine (created _ rfl rfl rfl).turnedStale _ ?_
    change s.advanceStamp.classEnabled k = true
    rwa [hclass]
  · exact created _ rfl rfl rfl

theorem carryPreload (h : s.Fits none) (c : CmdCopy) (k : Key) : (s.carryPreload c k).Fits none := by
  unfold State.carryPreload
  simp only
  split_ifs with hen hshape hj
  · exact h.endCommand _ _
  · exact h.endCommand _ _
  · split
    · exact h.endCommand _ _
    · exact h.endCommand _ _
  · simp only [not_or, not_not, Bool.not_eq_true] at hshape hj
    simp only [Bool.not_eq_true, Bool.not_eq_false'] at hen
    split
    · rename_i hl
      split
      · rename_i i r hr
        obtain ⟨hslotOf, hslot⟩ := State.recordOf_eq_some.mp hr
        have hkey := State.key_of_slotOf hslotOf
        rw [hslot] at hkey
        have hk : r.key = k := Option.some_inj.mp hkey
        rw [← hk] at hshape
        exact (h.preloadOver hslot hl hshape.1 hshape.2).endCommand _ _
      · rename_i hr
        have hk := State.slotOf_eq_none_of_not_reserved hr hj.2
        split
        · rename_i i t ha
          obtain ⟨heq, _⟩ := State.allocate_spec ha
          obtain ⟨hprof, hclass⟩ := State.classEnabled_congr (s := s) (t := t) (by rw [heq])
          exact ((h.allocate ha).preloadNew (State.slotOf_allocate ha hk) hl (hprof ▸ hshape.1)
            (hprof ▸ hshape.2) (hclass ▸ hen)).endCommand _ _
        · exact (h.raise _).endCommand _ _
    · exact h.endCommand _ _

/-! ### The other commands -/

theorem carryEnablePort (h : s.Fits none) (c : CmdCopy) : (s.carryEnablePort c).Fits none := by
  unfold State.carryEnablePort
  split
  · exact h.endCommand _ _
  · split_ifs with hs
    · exact (h.enable _ hs).endCommand _ _
    · exact h.endCommand _ _

theorem carryClearHold (h : s.Fits none) (c : CmdCopy) : (s.carryClearHold c).Fits none := by
  unfold State.carryClearHold
  split
  · exact h.endCommand _ _
  · split_ifs with hs
    · exact (h.enterSyncing _ (by simp [hs]) (by simp [hs])).endCommand _ _
    · exact h.endCommand _ _

theorem carryDisablePort (h : s.Fits none) {c : CmdCopy} (hc : s.mb.copy = some c)
    (h9 : c.code = 0x09) : (s.carryDisablePort c).Fits none := by
  unfold State.carryDisablePort
  split
  · exact h.endCommand _ _
  · split_ifs
    · exact h.endCommand _ _
    · refine (h.disable _ fun x k hx h6 _ => ?_).endCommand _ _
      rw [hc] at hx
      cases hx
      exact absurd (h9.symm.trans h6) (by decide)

theorem carryCancelTraining (h : s.Fits none) (c : CmdCopy) : (s.carryCancelTraining c).Fits none := by
  unfold State.carryCancelTraining
  split
  · exact h.endCommand _ _
  · split_ifs
    · exact (h.cancelJobs _).endCommand _ _
    · exact h.endCommand _ _

theorem carryGetProfile (h : s.Fits none) (c : CmdCopy) : (s.carryGetProfile c).Fits none := by
  unfold State.carryGetProfile
  split
  · exact h.endCommand _ _
  · exact h.endWithBuffer _

theorem carryReadRecord (h : s.Fits none) (c : CmdCopy) (k : Key) :
    (s.carryReadRecord c k).Fits none := by
  unfold State.carryReadRecord
  split
  · exact h.endWithBuffer _
  · exact h.endCommand _ _

theorem carryPin (h : s.Fits none) (k : Key) (on : Bool) : (s.carryPin k on).Fits none := by
  unfold State.carryPin
  split
  · rename_i i r hr
    have pinned := h.record (q := { r with pinned := on }) (State.recordOf_eq_some.mp hr).2 rfl rfl rfl
    exact pinned.endCommand _ _
  · exact h.endCommand _ _

theorem carryRetireRecord (h : s.Fits none) (c : CmdCopy) (k : Key) :
    (s.carryRetireRecord c k).Fits none := by
  unfold State.carryRetireRecord
  split
  · exact ((h.retireHost _ _).cancelJobs k).endCommand _ _
  · exact (h.cancelJobs k).endCommand _ _

theorem carryQueueTraining (h : s.Fits none) (c : CmdCopy) (k : Key) (hk : s.classEnabled k = true)
    (hs : (s.port k.port).state ≠ .offline) : (s.carryQueueTraining c k).Fits none := by
  unfold State.carryQueueTraining
  split
  · exact h.endCommand _ _
  · exact (h.enqueueCleared k _ _ hk hs).endCommand _ _

theorem settle (h : s.Fits none) : s.settle.Fits none := by
  rcases s.settle_cases with e | ⟨c, _, ⟨_, e⟩ | ⟨_, e⟩ | ⟨_, e⟩ | ⟨_, e⟩⟩
  · rwa [e]
  · exact e ▸ h.carryEnablePort c
  · exact e ▸ h.carryClearHold c
  · exact e ▸ h.carryGetProfile c
  · exact e ▸ h.endWithBuffer _

/-- A command is granted in a state that fits, where a QUEUE_TRAINING's key may be trained (R180). -/
theorem onGrantKey (h : s.Fits none) (code : Byte) {f : State → CmdCopy → Key → State}
    (hf : ∀ c k, s.mb.copy = some c → c.code = code → c.key = some k →
      (s.granted mailboxRequester).Fits none → (f (s.granted mailboxRequester) c k).Fits none) :
    (s.onGrantKey code f).Fits none := by
  have granted := h.granted mailboxRequester
  rcases s.onGrantKey_cases code f with e | ⟨c, ⟨hc, hcode, _⟩, ⟨k, hk, e⟩ | e⟩
  · rwa [e]
  · exact e ▸ hf c k hc hcode hk granted
  · exact e ▸ granted.endCommand _ _

theorem onCommand (h : s.Fits none) (code : Byte) {f : State → CmdCopy → State}
    (hf : ∀ c, s.mb.copy = some c → c.code = code → (f s c).Fits none) :
    (s.onCommand code f).Fits none := by
  rcases s.onCommand_cases code f with e | ⟨c, hc, hcode, e⟩
  · rwa [e]
  · exact e ▸ hf c hc hcode

/-- A QUEUE_TRAINING that passes its checks names a key that may be trained (R180). -/
theorem trainable_of_startCheck {c : CmdCopy} {k : Key} (h : s.startCheck c = none)
    (h6 : c.code = 0x06) (hk : c.key = some k) :
    s.classEnabled k = true ∧ (s.port k.port).state ≠ .offline := by
  rw [State.startCheck, if_pos h6, hk] at h
  cases hu : toUrgency c.urgency with
  | none => simp [hu] at h
  | some u =>
    simp only [hu] at h
    split_ifs at h with hs hen
    exact ⟨hen, hs⟩

theorem startCommand (h : s.Fits none) (code : Byte) : (s.startCommand code).Fits none := by
  have ended : ∀ st, (State.endCommand { s with mb := { s.mb with
      cmd := code, result := .none, retired := false, copy := some (s.mb.copyFor code) } } st).Fits
      none := fun st =>
    (h.mailboxTo (m := { s.mb with cmd := code, result := st, retired := false, copy := none })
      nofun).raise .mbDone
  unfold State.startCommand
  simp only
  split_ifs
  · exact h.raise _
  · split
    · exact ended _
    · rename_i hcheck
      refine h.mailboxTo fun c k hc h6 hk => ?_
      cases hc
      obtain ⟨hen, hs⟩ := trainable_of_startCheck (s := s) hcheck h6 hk
      exact ⟨hen, fun _ => hs⟩
  · exact ended _

end State.Fits

end Sys2Proof.Machine
end

section
/-! PROOF. The joined property along register writes and resets, and O60. -/

namespace Sys2Proof.Machine

/-! ### Resets -/

theorem Port.sound_reset : Port.reset.Sound :=
  ⟨fun h => absurd rfl h, Nat.zero_le _, fun h => absurd rfl h, Nat.zero_le _, fun _ => rfl,
    ⟨fun _ => rfl, fun _ => rfl⟩, fun _ => ⟨rfl, rfl, rfl, rfl⟩, fun _ _ => rfl⟩

theorem Port.sound_softReset (x : Port) : x.softReset.Sound := Port.sound_reset

namespace State.Fits
variable {s : State}

/-- With no slot, job, request or command there is nothing to fit together. -/
theorem of_empty (hp : ∀ p, (s.port p).Sound ∧ (s.port p).reqs = []) (hs : ∀ i, s.slot i = .free)
    (he : ∀ e, (s.engine e).ctx = none) (hq : s.queued = []) (ha : s.autoReqs = [])
    (hc : s.mb.copy = none) : s.Fits none := by
  have hrun : s.running = [] := by
    rw [List.eq_nil_iff_forall_not_mem]
    intro j hj
    obtain ⟨e, c, hc, _⟩ := State.mem_running.mp hj
    simp [he] at hc
  refine ⟨fun i j hi => ?_, ?_, fun p => (hp p).1, fun e c h => ?_, fun i => ?_, fun i k n h => ?_,
    fun e c h => ?_, fun p r hr => ?_, fun k hk => ?_⟩
  · simp [hs, Slot.key?] at hi
  · rw [hq, hrun]
    exact ⟨Nat.zero_le _, List.nodup_nil, List.nodup_nil, urgentFirst_iff.mp rfl⟩
  · simp [he] at h
  · rw [hs]
    exact ⟨fun k h => by simp [Slot.key?] at h, nofun⟩
  · simp [hs] at h
  · simp [he] at h
  · simp [(hp p).2] at hr
  · simp [State.Names, hq, hrun, ha, hc] at hk

theorem reset : State.reset.Fits none :=
  of_empty (fun p => by
    have : State.reset.port p = Port.reset := Table.get_fill _ _
    rw [this]
    exact ⟨Port.sound_reset, rfl⟩)
    (fun i => Table.get_fill _ i) (fun e => by
      have : State.reset.engine e = Engine.reset := Table.get_fill _ _
      rw [this]
      rfl) rfl rfl rfl

theorem hardReset (s : State) : s.hardReset.Fits none := reset.frame rfl rfl rfl rfl rfl rfl rfl

theorem softReset (s : State) (alert : Bool) : (s.softReset alert).Fits none :=
  of_empty (fun p => by
    have : (s.softReset alert).port p = (s.port p).softReset := Table.get_map _ _ _
    rw [this]
    exact ⟨Port.sound_softReset _, rfl⟩)
    (fun i => Table.get_fill _ i) (fun e => by
      have : (s.softReset alert).engine e = Engine.reset := Table.get_fill _ _
      rw [this]
      rfl) rfl rfl rfl

/-! ### Register writes -/

theorem ite {c : Prop} [Decidable c] {a b : State} (ha : a.Fits none) (hb : b.Fits none) :
    (if c then a else b).Fits none := by
  split_ifs
  · exact ha
  · exact hb

theorem writeTrw (h : s.Fits none) (v : Byte) : (s.writeTrw v).Fits none :=
  .ite (h.frame rfl rfl rfl rfl rfl rfl rfl) h

theorem writeWindowLimit (h : s.Fits none) (v : Byte) : (s.writeWindowLimit v).Fits none :=
  .ite (h.frame rfl rfl rfl rfl rfl rfl rfl) h

theorem writeSpaceAny (h : s.Fits none) (v : Byte) : (s.writeSpaceAny v).Fits none :=
  .ite (h.frame rfl rfl rfl rfl rfl rfl rfl) h

theorem writeSpaceGroup (h : s.Fits none) (v : Byte) : (s.writeSpaceGroup v).Fits none :=
  .ite (h.frame rfl rfl rfl rfl rfl rfl rfl) h

theorem writeTrialTimeout (h : s.Fits none) (v : Byte) : (s.writeTrialTimeout v).Fits none :=
  .ite (h.frame rfl rfl rfl rfl rfl rfl rfl) h

theorem writeFreshTime (h : s.Fits none) (v : Byte) : (s.writeFreshTime v).Fits none :=
  .ite (h.frame rfl rfl rfl rfl rfl rfl rfl) h

theorem handBudgetTests (h : s.Fits none) (c : ClassId) : (s.handBudgetTests c).Fits none := by
  refine h.enginesTo fun e => ?_
  rw [Table.get_map]
  change Option.map _ (Engine.ctx (match (s.engine e).ctx with
    | none => s.engine e
    | some ctx => _)) = _
  split
  · rfl
  · split
    · split_ifs <;> rfl
    · rfl

theorem writeDriftBudget (h : s.Fits none) (c : ClassId) (v : Byte) :
    (s.writeDriftBudget c v).Fits none :=
  .ite (((h.setBudget c _).evaluate _).handBudgetTests c) h

theorem writeAgeLimit (h : s.Fits none) (c : ClassId) (v : Byte) : (s.writeAgeLimit c v).Fits none :=
  .ite ((h.setBudget c _).evaluate _) (h.setBudget c _)

theorem writeTrimLimit (h : s.Fits none) (c : ClassId) (v : Byte) : (s.writeTrimLimit c v).Fits none :=
  .ite ((h.setBudget c _).evaluate _) h

theorem writeBudgetByte (h : s.Fits none) (off : Nat) (v : Byte) : (s.writeBudgetByte off v).Fits none :=
  .ite (h.writeDriftBudget _ v) <| .ite (h.setBudget _ _) <| .ite (h.writeAgeLimit _ v) <|
    h.writeTrimLimit _ v

theorem writePatternByte (h : s.Fits none) (off : Nat) (v : Byte) :
    (s.writePatternByte off v).Fits none :=
  .ite (h.frame rfl rfl rfl rfl rfl rfl rfl) (h.frame rfl rfl rfl rfl rfl rfl rfl)

theorem writeErrorPolicy (h : s.Fits none) (p : PortId) (v : Byte) : (s.writeErrorPolicy p v).Fits none :=
  h.stays p (.settings _ _ _)

theorem writeAutotrain (h : s.Fits none) (p : PortId) (v : Byte) : (s.writeAutotrain p v).Fits none := by
  have set : (s.modPort p fun x => { x with autotrain := v.getLsbD 0 }).Fits none :=
    h.stays p (.settings _ _ _)
  exact .ite (set.rescanAfter 1) set

theorem writePortByte (h : s.Fits none) (off : Nat) (v : Byte) : (s.writePortByte off v).Fits none :=
  .ite (h.writeErrorPolicy _ v) <| .ite (h.writeAutotrain _ v) h

theorem writeCtrl (h : s.Fits none) (v : Byte) : (s.writeCtrl v).Fits none :=
  .ite (softReset s _) (h.frame rfl rfl rfl rfl rfl rfl rfl)

/-- A write of an argument or of a buffer byte leaves the command's copy. -/
theorem setMailbox (h : s.Fits none) {m : Mailbox} (hm : m.copy = s.mb.copy) :
    (s.setMailbox m).Fits none := h.frame rfl rfl rfl rfl rfl rfl hm

theorem writeByte (h : s.Fits none) (a : Nat) (v : Byte) : (s.writeByte a v).Fits none :=
  .ite (h.writeCtrl v) <| .ite (h.frame rfl rfl rfl rfl rfl rfl rfl) <|
  .ite (h.frame rfl rfl rfl rfl rfl rfl rfl) <| .ite (h.startCommand v) <| .ite (h.setMailbox rfl) <|
  .ite (h.setMailbox rfl) <| .ite (h.setMailbox rfl) <| .ite (h.writeTrw v) <|
  .ite (h.writeWindowLimit v) <| .ite (h.writeSpaceAny v) <| .ite (h.writeSpaceGroup v) <|
  .ite (h.writeTrialTimeout v) <| .ite (h.writeFreshTime v) <| .ite (h.writeBudgetByte _ v) <|
  .ite (h.writePatternByte _ v) <| .ite (h.writePortByte _ v) <| .ite (h.setMailbox rfl) h

theorem startByteReceived (h : s.Fits none) (p : PortId) (hr : (s.port p).rx = .hunting) :
    (s.modPort p fun x => { x with rx := .inFrame [] }).Fits none := by
  refine h.stays p (.receives (fun ho => ?_) nofun)
  obtain ⟨_, _, _, _, _, hrx, _⟩ := h.ports p
  simp [hrx.mpr ho] at hr

end State.Fits

/-! ### Every command -/

theorem exec_fits (i : Instr) (s t : State) (hex : exec i s = .next t) (h : s.Fits none) :
    t.Fits none := by
  cases i <;> obtain rfl := Host.Outcome.next.inj hex
  case hardwareReset => exact .hardReset s
  case softReset => exact .softReset _ _
  case alertEnableWrite => exact h.settle.frame rfl rfl rfl rfl rfl rfl rfl
  case eventsWrite => exact h.settle.frame rfl rfl rfl rfl rfl rfl rfl
  case eventEnWrite => exact h.settle.frame rfl rfl rfl rfl rfl rfl rfl
  case registerWrite => exact h.settle.writeByte _ _
  case trwWrite => exact h.settle.writeTrw _
  case windowLimitWrite => exact h.settle.writeWindowLimit _
  case spaceAnyWrite => exact h.settle.writeSpaceAny _
  case spaceGroupWrite => exact h.settle.writeSpaceGroup _
  case trialTimeoutWrite => exact h.settle.writeTrialTimeout _
  case freshTimeWrite => exact h.settle.writeFreshTime _
  case driftBudgetWrite => exact h.settle.writeDriftBudget _ _
  case ageLimitWrite => exact h.settle.writeAgeLimit _ _
  case trimLimitWrite => exact h.settle.writeTrimLimit _ _
  case errorPolicyWrite => exact h.settle.writeErrorPolicy _ _
  case autotrainWrite => exact h.settle.writeAutotrain _ _
  case patternWordWrite => exact h.settle.frame rfl rfl rfl rfl rfl rfl rfl
  case commandStart => exact h.settle.startCommand _
  case readRecord => exact h.onGrantKey _ fun c k _ _ _ hg => hg.carryReadRecord c k
  case preloadRecord => exact h.onGrantKey _ fun c k _ _ _ hg => hg.carryPreload c k
  case retireRecord => exact h.onGrantKey _ fun c k _ _ _ hg => hg.carryRetireRecord c k
  case pin => exact h.onGrantKey _ fun _ k _ _ _ hg => hg.carryPin k true
  case unpin => exact h.onGrantKey _ fun _ k _ _ _ hg => hg.carryPin k false
  case queueTraining =>
    refine h.onGrantKey _ fun c k hc h6 hk hg => ?_
    obtain ⟨hen, hs⟩ := h.named (k := k) (.inr (.inr ⟨c, hc, h6, hk⟩))
    exact hg.carryQueueTraining c k hen hs
  case cancelTraining => exact h.onCommand _ fun c _ _ => h.carryCancelTraining c
  case enablePort => exact h.onCommand _ fun c _ _ => h.carryEnablePort c
  case disablePort => exact h.onCommand _ fun c hc h9 => h.carryDisablePort hc h9
  case clearHold => exact h.onCommand _ fun c _ _ => h.carryClearHold c
  case setProfile => exact h.onGrantKey _ fun c k _ _ _ hg => hg.carrySetProfile c k
  case getProfile => exact h.onCommand _ fun c _ _ => h.carryGetProfile c
  case listRecords =>
    rcases s.onGrant_cases 0x0D State.carryListRecords with e | ⟨c, _, e⟩
    · rwa [e]
    · exact e ▸ (h.granted _).endWithBuffer _
  case listQueue => exact h.onCommand _ fun _ _ _ => h.endWithBuffer _
  case hello => exact h.takeFrame _ _ _ fun _ _ hf hs => hf.takeHello _ _ _ hs
  case temp => exact h.takeFrame _ _ _ fun _ _ hf _ => hf.takeTemp _ _
  case autoRequest => exact h.takeAutoRequest
  case lookup => exact h.takeFrame _ _ _ fun _ _ hf hs => hf.takeRequest _ _ trivial hs
  case applied => exact h.takeFrame _ _ _ fun _ _ hf hs => hf.takeRequest _ _ trivial hs
  case trim =>
    refine h.takeFrame _ _ _ fun a ha hf hs => hf.takeRequest _ _ ?_ hs
    exact State.requestFits_of_parseTrim ha
  case train => exact h.takeFrame _ _ _ fun _ _ hf hs => hf.takeRequest _ _ trivial hs
  case retire => exact h.takeFrame _ _ _ fun _ _ hf hs => hf.takeRequest _ _ trivial hs
  case park => exact h.takeFrame _ _ _ fun _ _ hf hs => hf.takeRequest _ _ trivial hs
  case wake => exact h.takeFrame _ _ _ fun _ _ hf hs => hf.takeWake _ _ hs
  case resync => exact h.takeResync _ _ _
  case ready => exact h.takeFrame _ _ _ fun _ _ hf _ => hf.takeReady _ _
  case result =>
    refine h.takeFrame _ _ _ fun a _ hf _ => ?_
    cases a with
    | some x => exact hf.takeResult _ _ _
    | none => exact hf
  case badFrame => exact .ite (h.takeBad _) h
  case lookupService =>
    exact h.serve _ _ fun t tag c _ ht hs _ _ => ht.ifEnabled tag hs fun _ => ht.serveLookup _ tag hs
  case appliedService =>
    exact h.serve _ _ fun t tag a _ ht hs _ _ =>
      ht.ifEnabled tag hs fun _ => ht.serveApplied _ tag _ hs
  case trimService =>
    refine h.serve _ _ fun t tag a body ht hs hk hb => ht.ifEnabled tag hs fun hen => ?_
    cases body with
    | trim c g deltas =>
      cases hk
      exact ht.serveTrim _ tag _ _ hs (hb hen)
    | _ => simp at hk
  case retireService =>
    exact h.serve _ _ fun t tag c _ ht hs _ _ => ht.ifEnabled tag hs fun _ => ht.serveRetire _ tag hs
  case trainService =>
    exact h.serve _ _ fun t tag a _ ht hs _ _ =>
      ht.ifEnabled tag hs fun hen => ht.serveTrain _ tag _ hen hs
  case parkService => exact h.serve _ _ fun t tag _ _ ht hs _ _ => ht.servePark _ tag hs
  case frameSent => exact h.frameSent _
  case deferredFramePlacement => exact h.stays _ .placeHeld
  case freshnessExpiry => exact h.expireFreshness _
  case ageTimerExpiry => exact h.expireAge _
  case trialTimerExpiry => exact h.expireTrial _
  case temperatureMovementTest => exact h.takeTest _
  case startListDeparture => exact h.departStart
  case spaceAnyExpiry => exact h.expireSpaceAny
  case spaceGroupExpiry => exact h.expireSpaceGroup _
  case startDecision => exact h.decideStart
  case rescan => exact h.rescan
  case reservation => exact h.onRequest _ fun c _ hc => .ite (h.reserve hc) h
  case commit => exact h.onRequest _ fun c _ hc => .ite (h.commit hc) h
  case noEye => exact h.onRequest _ fun c _ hc => .ite (h.endFailed hc _) h
  case failureOperation =>
    refine h.onRequest _ fun c q hc => ?_
    cases q with
    | failure o => exact h.endFailed hc o
    | reserve => exact h
    | commit => exact h
    | noEye => exact h
  case unknownKindFrame => exact .ite h (h.takeFrame _ _ _ fun _ _ hf _ => hf)
  case startByteReceived =>
    split_ifs with hr
    · exact h.startByteReceived _ hr
    · exact h

/-- Settles O60: the parts of the joined property, kept together by every command. -/
theorem stepsKeepJoined : Obligations.StepsKeepJoined := by
  intro s t hstep h
  rw [State.joined_iff] at h ⊢
  rcases step_cases hstep with rfl | ⟨c, rest, _, hex⟩
  · exact h.tick
  · have popped : State.Fits none { s with pending := rest } := h.frame rfl rfl rfl rfl rfl rfl rfl
    exact exec_fits c _ t hex popped

end Sys2Proof.Machine
end

section
/-! PROOF. The mailbox commands at their grant: O16, O18, O22 and O25. -/

namespace Sys2Proof.Machine

/-! ### What is due is done -/

/-- The grant to the mailbox puts the pointer at P0 (R76). -/
theorem State.granted_mailbox (s : State) : s.granted mailboxRequester = { s with arb := 0 } := rfl

theorem State.onGrant_of_due {s : State} {c : CmdCopy} {code : Byte} {f : State → CmdCopy → State}
    (h : s.CommandDue c code) : s.onGrant code f = f { s with arb := 0 } c := by
  obtain ⟨hc, hcode, hg⟩ := h
  simp only [State.onGrant, hc, hcode, hg, and_self, if_true, State.granted_mailbox]

theorem State.onGrantKey_of_due {s : State} {c : CmdCopy} {code : Byte} {k : Key}
    {f : State → CmdCopy → Key → State} (h : s.CommandDue c code) (hk : c.key = some k) :
    s.onGrantKey code f = f { s with arb := 0 } c k := by
  rw [State.onGrantKey, State.onGrant_of_due h, hk]

theorem State.serve_of_due {α : Type} {s : State} {p : PortId} {tag : Byte} {body : ReqBody}
    {kind : ReqBody → Option α} {a : α} {f : State → Byte → α → State}
    (h : s.RequestDue p tag body) (hk : kind body = some a) :
    s.serve p kind f = f (s.takeHead p) tag a := by
  obtain ⟨⟨rest, hr⟩, hg⟩ := h
  simp only [State.serve, hr, hk, hg, if_true]

/-- A TRAIN due is served with the request gone from the queue (R80, R97). -/
theorem exec_trainService {s : State} {p : PortId} {tag : Byte} {c : ClassId} {u : Urgency}
    (h : s.RequestDue p tag (.train c u)) : exec (.trainService p) s =
      .next ((s.takeHead p).ifEnabled ⟨p, c⟩ tag fun t => t.serveTrain ⟨p, c⟩ tag u) :=
  congrArg Host.Outcome.next (State.serve_of_due (a := (c, u)) h (by rfl))

/-! ### READ_RECORD, LIST_RECORDS, PIN and UNPIN -/

section
variable {s : State} {k : Key}

theorem State.carryReadRecord_of_some {c : CmdCopy} {i : SlotId} {r : Record}
    (h : s.recordOf k = some (i, r)) :
    s.carryReadRecord c k = s.endWithBuffer (s.snapshot r).bytes := by
  simp only [State.carryReadRecord, h]

theorem State.carryReadRecord_of_none {c : CmdCopy} (h : s.recordOf k = none) :
    s.carryReadRecord c k = s.endCommand .absent := by
  simp only [State.carryReadRecord, h]

theorem State.carryPin_of_some {i : SlotId} {r : Record} {on : Bool}
    (h : s.recordOf k = some (i, r)) :
    s.carryPin k on = (s.setSlot i (.occupied { r with pinned := on })).endCommand .done := by
  simp only [State.carryPin, h]

theorem State.carryPin_of_none {on : Bool} (h : s.recordOf k = none) :
    s.carryPin k on = s.endCommand .absent := by
  simp only [State.carryPin, h]

end

/-- Settles O16: each command as its definition says, from the state with the pointer moved. -/
theorem readListPin : Obligations.ReadListPin := by
  refine ⟨fun s c hdue => congrArg _ (State.onGrant_of_due hdue), fun s c k hk => ?_⟩
  have pins : ∀ code on, s.CommandDue c code →
      s.onGrantKey code (fun t _ k => t.carryPin k on) = State.carryPin { s with arb := 0 } k on :=
    fun _ _ hdue => State.onGrantKey_of_due hdue hk
  rcases hr : s.recordOf k with _ | ⟨i, r⟩
  · exact ⟨fun hdue => congrArg _ ((State.onGrantKey_of_due hdue hk).trans
        (State.carryReadRecord_of_none (s := { s with arb := 0 }) hr)),
      fun hdue => congrArg _ ((pins _ _ hdue).trans
        (State.carryPin_of_none (s := { s with arb := 0 }) hr)),
      fun hdue => congrArg _ ((pins _ _ hdue).trans
        (State.carryPin_of_none (s := { s with arb := 0 }) hr))⟩
  · exact ⟨fun hdue => congrArg _ ((State.onGrantKey_of_due hdue hk).trans
        (State.carryReadRecord_of_some (s := { s with arb := 0 }) hr)),
      fun hdue => congrArg _ ((pins _ _ hdue).trans
        (State.carryPin_of_some (s := { s with arb := 0 }) hr)),
      fun hdue => congrArg _ ((pins _ _ hdue).trans
        (State.carryPin_of_some (s := { s with arb := 0 }) hr))⟩

/-! ### Retirement, and training removed -/

theorem State.notify_ports (s : State) (r : Record) (kind : NoticeKind) (gen : Nat) :
    s.notify r kind gen = { s with
      ports := if r.applied.isSome ∧ (s.port r.key.port).state = .online then
        s.ports.set r.key.port ((s.port r.key.port).placeNotice r.key.cls kind gen) else s.ports } := by
  unfold State.notify
  split_ifs <;> rfl

theorem State.releaseSlot_of_occupied {s : State} {i : SlotId} {r : Record}
    (h : s.slot i = .occupied r) : s.releaseSlot i = { s with
      slots := s.slots.set i .free, free := s.free + r.laneCount } := by
  rw [State.releaseSlot, h]
  rfl

/-- A host retirement frees the slot and notifies (R24, R26). -/
theorem State.retireHost_of_occupied {s : State} {i : SlotId} {r : Record}
    (h : s.slot i = .occupied r) : s.retireHost i r = { s with
      slots := s.slots.set i .free, free := s.free + r.laneCount
      ports := if r.applied.isSome ∧ (s.port r.key.port).state = .online then
        s.ports.set r.key.port ((s.port r.key.port).placeNotice r.key.cls .retired r.gen)
      else s.ports } := by
  rw [State.retireHost, State.releaseSlot_of_occupied h, State.notify_ports]
  rfl

/-- A key without a job has no training to remove. -/
theorem State.cancelJobs_of_no_job {s : State} {k : Key} (h : s.hasJob k = false) :
    s.cancelJobs k = s := by
  obtain ⟨hq, hr⟩ := Bool.or_eq_false_iff.mp h
  have kept : withoutKey k s.queued = s.queued := withoutKey_eq_self fun j hj hk => by
    simp [State.jobQueued_iff.mpr ⟨j, hj, hk⟩] at hq
  simp [State.cancelJobs, kept, State.rescanAfter, State.runningKey_eq_none.mpr hr]

/-! ### SET_PROFILE -/

/-- Settles O18: without a job there is nothing to cancel, and an OFFLINE port gets no NOTICE. -/
theorem setProfile : Obligations.SetProfile := by
  intro s c k hdue hk
  have carried : exec .setProfile s = .next (State.carrySetProfile { s with arb := 0 } c k) :=
    congrArg _ (State.onGrantKey_of_due hdue hk)
  rw [carried]
  refine ⟨fun hs => congrArg _ (if_pos hs), fun hs hp => congrArg _ ?_, ?_⟩
  · exact (if_neg (not_not.mpr hs)).trans (by simp only [hp])
  · rintro p hs hj hp t rfl
    refine congrArg _ ((if_neg (not_not.mpr hs)).trans ?_)
    simp only [hp]
    rcases hr : s.recordOf k with _ | ⟨i, r⟩
    · have absent : (State.setProfile { s with arb := 0 } k p).recordOf k = none := hr
      simp only [absent, ite_self]
      rfl
    · have found : (State.setProfile { s with arb := 0 } k p).recordOf k = some (i, r) := hr
      have offline : ¬(r.applied.isSome = true ∧
          ((State.setProfile { s with arb := 0 } k p).port r.key.port).state = .online) := by
        rw [State.key_of_recordOf hr]
        exact fun ho => by simpa using hs.symm.trans ho.2
      simp only [found]
      refine if_congr Iff.rfl ?_ rfl
      rw [State.retireHost_of_occupied (s := State.setProfile { s with arb := 0 } k p)
        (State.recordOf_eq_some.mp hr).2, if_neg offline]
      exact congrArg (fun t => State.endCommand t .done true) (State.cancelJobs_of_no_job (by exact hj))

/-! ### RETIRE_RECORD -/

/-- Settles O22: the retirement as it stands, then the removal of training. -/
theorem retireRecord : Obligations.RetireRecord := by
  intro s c k hq h1 hdue hk
  have carried : exec .retireRecord s = .next (State.carryRetireRecord { s with arb := 0 } c k) :=
    congrArg _ (State.onGrantKey_of_due hdue hk)
  rw [carried]
  refine ⟨fun i r hr => ?_, fun hr => ?_⟩
  · have hslot := (State.recordOf_eq_some.mp hr).2
    have retired := State.retireHost_of_occupied (s := { s with arb := 0 }) hslot
    rw [State.key_of_recordOf hr] at retired
    have found : State.recordOf { s with arb := 0 } k = some (i, r) := hr
    refine ⟨_, by rw [State.carryRetireRecord, found], ?_⟩
    rw [retired]
    exact State.cancelJobs_spec _ k hq ((s.keepsStore_releaseSlot i).keys h1)
  · have absent : State.recordOf { s with arb := 0 } k = none := hr
    exact ⟨_, by rw [State.carryRetireRecord, absent], State.cancelJobs_spec _ k hq h1⟩

/-! ### QUEUE_TRAINING and TRAIN -/

theorem State.clearHoldOff_of_some {s : State} {k : Key} {i : SlotId} {r : Record}
    (h : s.recordOf k = some (i, r)) :
    s.clearHoldOff k = { s with slots := s.slots.set i (.occupied { r with holdOff := false }) } := by
  simp only [State.clearHoldOff, h, State.setSlot]

theorem State.clearHoldOff_of_none {s : State} {k : Key} (h : s.recordOf k = none) :
    s.clearHoldOff k = s := by
  simp only [State.clearHoldOff, h]

theorem toUrgency_of_two_le {b : Byte} (h : 2 ≤ b.toNat) : toUrgency b = none := by
  have h0 : b ≠ 0 := by
    rintro rfl
    simp at h
  have h1 : b ≠ 1 := by
    rintro rfl
    simp at h
  rw [toUrgency, if_neg h0, if_neg h1]

theorem State.carryQueueTraining_of_urgency {s : State} {c : CmdCopy} {k : Key} {u : Urgency}
    (h : toUrgency c.urgency = some u) : s.carryQueueTraining c k =
      ((s.clearHoldOff k).enqueue k .management u).1.endCommand
        ((s.clearHoldOff k).enqueue k .management u).2 := by
  simp only [State.carryQueueTraining, h]

/-- Settles O25: both sources clear the hold-off, then enqueue. -/
theorem trainingAsked : Obligations.TrainingAsked := by
  refine ⟨fun s c k u hdue hk hu s' hs' => ?_, fun s c k hdue hk hu => ?_, ?_⟩
  · have cleared : State.clearHoldOff { s with arb := 0 } k = s' := by
      rw [hs']
      rcases hr : s.recordOf k with _ | ⟨i, r⟩
      · exact State.clearHoldOff_of_none (s := { s with arb := 0 }) hr
      · exact State.clearHoldOff_of_some (s := { s with arb := 0 }) hr
    have urgency : toUrgency c.urgency = some u := by
      rw [hu]
      cases u <;> rfl
    refine congrArg _ ((State.onGrantKey_of_due hdue hk).trans ?_)
    rw [State.carryQueueTraining_of_urgency urgency, cleared]
  · refine congrArg _ ((State.onGrantKey_of_due hdue hk).trans ?_)
    simp only [State.carryQueueTraining, toUrgency_of_two_le hu]
  · intro s p tag c u hdue s' hs'
    have cleared : (s.takeHead p).clearHoldOff ⟨p, c⟩ = s' := by
      rw [hs']
      rcases hr : s.recordOf ⟨p, c⟩ with _ | ⟨i, r⟩
      · exact State.clearHoldOff_of_none (s := s.takeHead p) hr
      · exact State.clearHoldOff_of_some (s := s.takeHead p) hr
    rw [exec_trainService hdue]
    refine congrArg _ (if_congr Iff.rfl ?_ rfl)
    simp only [State.serveTrain, cleared]

end Sys2Proof.Machine
end

section
/-! PROOF. PRELOAD_RECORD at the grant: O19 and O20. -/

namespace Sys2Proof.Machine

/-! ### The preload evaluation (R34, R39) -/

theorem ageOk_iff {b : Budget} {age : Nat} :
    ageOk b age = true ↔ b.ageLimit = 0 ∨ age < b.ageLimit := by simp [ageOk]

theorem Record.fit_iff {b : Budget} {v : Int} {r : Record} : r.fit b v = true ↔
    (v - r.trained).natAbs ≤ b.drift ∧ (b.ageLimit = 0 ∨ r.age < b.ageLimit) ∧
      ∀ l ∈ r.lanes, l.trim.natAbs ≤ b.trimLimit := by
  simp [Record.fit, driftOk, ageOk, trimOk, and_assoc]

/-- The signed number of two bytes is that of the word they spell (R189). -/
theorem signed16_eq (lo hi : Byte) : signed16 lo hi = (hi ++ lo : BitVec 16).toInt := by
  have word : BitVec.ofNat 16 (fromLe16 lo hi) = hi ++ lo := by
    apply BitVec.eq_of_toNat_eq
    have hlo : lo.toNat < 2 ^ 8 := lo.isLt
    have hhi : hi.toNat < 2 ^ 8 := hi.isLt
    rw [BitVec.toNat_append, ← Nat.shiftLeft_add_eq_or_of_lt hlo, Nat.shiftLeft_eq, BitVec.toNat_ofNat,
      fromLe16]
    omega
  rw [signed16, word]

theorem validTemp_iff {t : Int} : validTemp t = true ↔ -128 ≤ t ∧ t ≤ 255 := by simp [validTemp]

/-! ### The pointer does not matter to the store -/

theorem State.foldl_evict_arb (s : State) (a : Fin 9) (l : List SlotId) :
    l.foldl State.evict { s with arb := a } = { l.foldl State.evict s with arb := a } := by
  induction l generalizing s with
  | nil => rfl
  | cons i l ih => exact ih (s.evict i)

theorem State.allocate_arb (s : State) (a : Fin 9) (n : Nat) :
    State.allocate { s with arb := a } n =
      (s.allocate n).map fun x => (x.1, { x.2 with arb := a }) := by
  have evicting : ∀ set : Option (List SlotId),
      (set.bind fun l => (l.foldl State.evict { s with arb := a }).lowestFree.map fun i =>
        (i, l.foldl State.evict { s with arb := a })) =
      (set.bind fun l => (l.foldl State.evict s).lowestFree.map fun i =>
        (i, l.foldl State.evict s)).map fun x => (x.1, { x.2 with arb := a }) := by
    rintro (_ | l)
    · rfl
    · simp only [Option.bind_some, State.foldl_evict_arb, Option.map_map]
      rfl
  have free : State.lowestFree { s with arb := a } = s.lowestFree := rfl
  unfold State.allocate
  rw [free]
  cases s.lowestFree with
  | none => exact evicting _
  | some i =>
    by_cases h : n ≤ s.free
    · simp only [if_pos h, Option.map_some]
    · simp only [if_neg h]
      exact evicting _

theorem State.advanceStamp_arb (s : State) (a : Fin 9) :
    State.advanceStamp { s with arb := a } = { s.advanceStamp with arb := a } := by
  simp only [State.advanceStamp]
  split_ifs <;> rfl

/-! ### The checks (R176) -/

/-- The checks of a preload but for the last two: class, lanes, fields. -/
structure State.PreloadPasses (s : State) (k : Key) (m : Memory) (lanes : List LaneEntry) : Prop where
  enabled : s.classEnabled k = true
  count : bufferLanes m = (s.profile k).laneCount
  ref : bufferRef m = (s.profile k).refEnable
  temp : validTemp (bufferTrained m) = true
  fields : bufferLaneList m (s.budget k.cls).trimLimit = some lanes

section
variable {s : State} {c : CmdCopy} {k : Key} {lanes : List LaneEntry}

theorem State.carryPreload_of_job (h : s.PreloadPasses k (c.buffer.getD []) lanes)
    (hj : s.hasJob k = true) : s.carryPreload c k = s.endCommand .jobPending := by
  obtain ⟨hen, hn, hf, ht, hl⟩ := h
  simp [State.carryPreload, hen, hn, hf, ht, hl, hj]

theorem State.carryPreload_of_record (h : s.PreloadPasses k (c.buffer.getD []) lanes)
    (hj : s.hasJob k = false) {i : SlotId} {r : Record} (hr : s.recordOf k = some (i, r)) :
    s.carryPreload c k = (s.preloadOver (c.buffer.getD []) lanes i r).endCommand .done := by
  obtain ⟨hen, hn, hf, ht, hl⟩ := h
  simp [State.carryPreload, hen, hn, hf, ht, hl, hj, State.reservedFor, hr]

theorem State.recordOf_of_no_slot (h : s.slotOf k = none) : s.recordOf k = none := by
  simp [State.recordOf, h]

theorem State.carryPreload_of_room (h : s.PreloadPasses k (c.buffer.getD []) lanes)
    (hj : s.hasJob k = false) (hs : s.slotOf k = none) {i : SlotId} {t : State}
    (ha : s.allocate (s.profile k).laneCount = some (i, t)) :
    s.carryPreload c k = (t.preloadNew (c.buffer.getD []) lanes i k).endCommand .done := by
  obtain ⟨hen, hn, hf, ht, hl⟩ := h
  simp [State.carryPreload, hen, hn, hf, ht, hl, hj, State.reservedFor, hs,
    State.recordOf_of_no_slot hs, ha]

theorem State.carryPreload_of_full (h : s.PreloadPasses k (c.buffer.getD []) lanes)
    (hj : s.hasJob k = false) (hs : s.slotOf k = none)
    (ha : s.allocate (s.profile k).laneCount = none) :
    s.carryPreload c k = (s.raise .storeFull).endCommand .storeFull := by
  obtain ⟨hen, hn, hf, ht, hl⟩ := h
  simp [State.carryPreload, hen, hn, hf, ht, hl, hj, State.reservedFor, hs,
    State.recordOf_of_no_slot hs, ha]

end

/-- Settles O19: the first check that fails decides. -/
theorem preloadChecks : Obligations.PreloadChecks := by
  intro s c k m hdue hk hm refused disabled mismatch badField
  subst hm
  have carried : exec .preloadRecord s = .next (State.carryPreload { s with arb := 0 } c k) :=
    congrArg _ (State.onGrantKey_of_due hdue hk)
  have shape : ¬mismatch → bufferLanes (c.buffer.getD []) = (s.profile k).laneCount ∧
      bufferRef (c.buffer.getD []) = (s.profile k).refEnable := fun h => by
    simpa [mismatch, bufferLanes, bufferRef] using h
  have temp : bufferTrained (c.buffer.getD []) =
      (Memory.read (c.buffer.getD []) 7 ++ Memory.read (c.buffer.getD []) 6 : BitVec 16).toInt :=
    signed16_eq _ _
  have passes : ¬disabled → ¬mismatch → ¬badField →
      ∃ lanes, State.PreloadPasses { s with arb := 0 } k (c.buffer.getD []) lanes := by
    intro hen hshape hfield
    obtain ⟨hn, hf⟩ := shape hshape
    simp only [badField, not_or, not_not, ← temp] at hfield
    obtain ⟨lanes, hl⟩ := Option.ne_none_iff_exists'.mp hfield.2
    exact ⟨lanes, Bool.eq_true_of_not_eq_false hen, hn, hf, validTemp_iff.mpr hfield.1, hl⟩
  refine ⟨fun hen => ?_, fun hen hshape => ?_, fun hen hshape hfield => ?_,
    fun hen hshape hfield hj => ?_, fun hen hshape hfield hj hs ha => ?_⟩
  · have off : State.classEnabled { s with arb := 0 } k = false := hen
    exact carried.trans (congrArg _ (by simp [State.carryPreload, off]))
  · have on : State.classEnabled { s with arb := 0 } k = true := Bool.eq_true_of_not_eq_false hen
    refine carried.trans (congrArg _ ?_)
    simp only [State.carryPreload, on, Bool.not_true, Bool.false_eq_true, if_false]
    exact if_pos hshape
  · have on : State.classEnabled { s with arb := 0 } k = true := Bool.eq_true_of_not_eq_false hen
    refine carried.trans (congrArg _ ?_)
    simp only [State.carryPreload, on, Bool.not_true, Bool.false_eq_true, if_false]
    refine (if_neg hshape).trans ?_
    split
    · rename_i ht hl
      refine absurd hfield (not_or.mpr ⟨not_not.mpr (validTemp_iff.mp (temp ▸ ht)), fun hn => ?_⟩)
      simpa using hn.symm.trans hl
    · rfl
  · obtain ⟨lanes, h⟩ := passes hen hshape hfield
    exact carried.trans (congrArg _ (State.carryPreload_of_job h hj))
  · obtain ⟨lanes, h⟩ := passes hen hshape hfield
    have full : State.allocate { s with arb := 0 } (s.profile k).laneCount = none := by
      rw [State.allocate_arb, ha]
      rfl
    exact carried.trans (congrArg _ (State.carryPreload_of_full h hj hs full))

/-! ### What a preload writes (R23, R39) -/

/-- Where a record with its hold-off clear turns STALE, it makes an AUTO request or raises STALE_SEEN
(R45). -/
theorem State.staleRequest_of_clear {s : State} {r : Record} (h : r.holdOff = false) (turns : Prop)
    [Decidable turns] : (if turns then s.staleRequest r else s) = { s with
      autoReqs := s.autoReqs ++ (if turns ∧ (s.port r.key.port).autotrain = true ∧
        (s.port r.key.port).state ≠ .offline then [r.key] else [])
      events := if turns ∧ ((s.port r.key.port).autotrain = false ∨
        (s.port r.key.port).state = .offline) then s.events ||| 0x20#8 else s.events } := by
  by_cases hs : turns
  · rw [if_pos hs, State.staleRequest, h]
    by_cases ht : (s.port r.key.port).autotrain = true <;>
      by_cases ho : (s.port r.key.port).state = .offline <;>
        simp [hs, ht, ho, State.raise, EventFlag.mask, EventFlag.bit]
  · simp [hs]

theorem State.notify_keeps (s : State) (r : Record) (kind : NoticeKind) (gen : Nat) (p : PortId) :
    ((s.notify r kind gen).port p).autotrain = (s.port p).autotrain ∧
      ((s.notify r kind gen).port p).state = (s.port p).state := by
  unfold State.notify
  split_ifs
  · rw [State.port_modPort]
    split_ifs with hp
    · subst hp
      simp
    · exact ⟨rfl, rfl⟩
  · exact ⟨rfl, rfl⟩

/-- A record replaced in its slot, with its NOTICE, and turned STALE where `turns` says so. -/
theorem State.replace_eq {s : State} {i : SlotId} {r q : Record} (hk : q.key = r.key)
    (hh : q.holdOff = false) (gen : Nat) (turns : Prop) [Decidable turns] :
    (if turns then State.staleRequest ((s.setSlot i (.occupied q)).notify r .replaced gen) q
      else (s.setSlot i (.occupied q)).notify r .replaced gen) = { s with
      slots := s.slots.set i (.occupied q)
      ports := if r.applied.isSome ∧ (s.port r.key.port).state = .online then
        s.ports.set r.key.port ((s.port r.key.port).placeNotice r.key.cls .replaced gen) else s.ports
      autoReqs := s.autoReqs ++ (if turns ∧ (s.port r.key.port).autotrain = true ∧
        (s.port r.key.port).state ≠ .offline then [r.key] else [])
      events := if turns ∧ ((s.port r.key.port).autotrain = false ∨
        (s.port r.key.port).state = .offline) then s.events ||| 0x20#8 else s.events } := by
  obtain ⟨ht, ho⟩ := (s.setSlot i (.occupied q)).notify_keeps r .replaced gen r.key.port
  rw [State.staleRequest_of_clear hh, hk, ht, ho, State.notify_ports]
  rfl

/-- A preload over a record, given the condition its evaluation finds. -/
theorem State.preloadOver_eq {s : State} {m : Memory} {lanes : List LaneEntry} {i : SlotId} {r : Record}
    {cond : Condition}
    (h : preloadCondition (s.budget r.key.cls) (s.port r.key.port).temp
      (r.advance.preloaded m lanes s.now) = cond) :
    s.preloadOver m lanes i r = { s with
      slots := s.slots.set i (.occupied { r.advance.preloaded m lanes s.now with cond := cond })
      ports := if r.applied.isSome ∧ (s.port r.key.port).state = .online then
        s.ports.set r.key.port ((s.port r.key.port).placeNotice r.key.cls .replaced (nextGen r.gen))
        else s.ports
      autoReqs := s.autoReqs ++ (if (cond = .stale ∧ r.cond ≠ .stale) ∧
        (s.port r.key.port).autotrain = true ∧ (s.port r.key.port).state ≠ .offline then [r.key] else [])
      events := if (cond = .stale ∧ r.cond ≠ .stale) ∧
        ((s.port r.key.port).autotrain = false ∨ (s.port r.key.port).state = .offline) then
        s.events ||| 0x20#8 else s.events } := by
  unfold State.preloadOver
  simp only [h]
  exact State.replace_eq (r := r) (q := { r.advance.preloaded m lanes s.now with cond := cond }) rfl rfl
    (nextGen r.gen) (cond = .stale ∧ r.cond ≠ .stale)

/-- The record a preload creates. -/
def Record.ofBuffer (k : Key) (m : Memory) (lanes : List LaneEntry) (cond : Condition)
    (stamp laneCount now : Nat) : Record :=
  { key := k, cond := cond, gen := 1, applied := none, origin := .loaded
    trained := bufferTrained m, age := bufferAge m, pinned := false, holdOff := false
    stamp := stamp, laneCount := laneCount, lanes := lanes, ageSince := now }

/-- A preload into a new slot, given the condition its evaluation finds. -/
theorem State.preloadNew_eq {s : State} {m : Memory} {lanes : List LaneEntry} {i : SlotId} {k : Key}
    {cond : Condition}
    (h : preloadCondition (s.budget k.cls) (s.port k.port).temp
      (.ofBuffer k m lanes .dormant s.advanceStamp.stamp (s.profile k).laneCount s.now) = cond) :
    s.preloadNew m lanes i k = { s.advanceStamp with
      slots := s.advanceStamp.slots.set i (.occupied
        (.ofBuffer k m lanes cond s.advanceStamp.stamp (s.profile k).laneCount s.now))
      free := s.advanceStamp.free - (s.profile k).laneCount
      autoReqs := s.autoReqs ++ (if cond = .stale ∧
        (s.port k.port).autotrain = true ∧ (s.port k.port).state ≠ .offline then [k] else [])
      events := if cond = .stale ∧ ((s.port k.port).autotrain = false ∨
        (s.port k.port).state = .offline) then s.events ||| 0x20#8 else s.events } := by
  subst h
  obtain ⟨f, n, hadv⟩ := s.advanceStamp_eq
  have unnoticed : ∀ (t : State) (q : Record), q.applied = none → t.notify q .stale q.gen = t :=
    fun t q hq => by simp [State.notify, hq]
  have created : ∀ q : Record, q.key = k → q.applied = none → q.holdOff = false →
      ∀ (turns : Prop) [Decidable turns],
      (if turns then
        (s.advanceStamp.takeSlot i (.occupied q) (s.profile k).laneCount).turnedStale q
      else s.advanceStamp.takeSlot i (.occupied q) (s.profile k).laneCount) = { s.advanceStamp with
      slots := s.advanceStamp.slots.set i (.occupied q)
      free := s.advanceStamp.free - (s.profile k).laneCount
      autoReqs := s.autoReqs ++ (if turns ∧ (s.port k.port).autotrain = true ∧
        (s.port k.port).state ≠ .offline then [k] else [])
      events := if turns ∧ ((s.port k.port).autotrain = false ∨
        (s.port k.port).state = .offline) then s.events ||| 0x20#8 else s.events } := by
    intro q hk ha hh turns _
    rw [State.turnedStale, unnoticed _ q ha, State.staleRequest_of_clear hh, hk, hadv]
    rfl
  exact created _ rfl rfl rfl _

/-- Settles O20: the preload evaluation reads temperature, age and lanes of the buffer alone. -/
theorem preloadWrites : Obligations.PreloadWrites := by
  intro s c k m lanes hdue hk hm hen hn hf ht hl hj cond
  subst hm
  have carried : exec .preloadRecord s = .next (State.carryPreload { s with arb := 0 } c k) :=
    congrArg _ (State.onGrantKey_of_due hdue hk)
  have passes : State.PreloadPasses { s with arb := 0 } k (c.buffer.getD []) lanes :=
    ⟨hen, hn, hf, ht, hl⟩
  have evaluated : ∀ q : Record, q.trained = bufferTrained (c.buffer.getD []) →
      q.age = bufferAge (c.buffer.getD []) → q.lanes = lanes →
      preloadCondition (s.budget k.cls) (s.port k.port).temp q = cond := by
    intro q hq ha hlanes
    simp only [cond]
    cases (s.port k.port).temp with
    | fresh v timer => simp only [preloadCondition, Record.fit_iff, hq, ha, hlanes]
    | unknown => simp only [preloadCondition, ageOk_iff, ha]
  clear_value cond
  refine ⟨fun i r hr => ?_, fun i a hs ha => ?_⟩
  · obtain rfl := State.key_of_recordOf hr
    have written := State.preloadOver_eq (s := { s with arb := 0 }) (i := i) (r := r)
      (evaluated (r.advance.preloaded (c.buffer.getD []) lanes s.now) rfl rfl rfl)
    refine ⟨_, _, carried, State.carryPreload_of_record passes hj hr, ?_⟩
    rw [written]
    refine ⟨rfl, rfl, fun h => if_pos h, fun h => if_neg h, ?_, ?_⟩ <;> simp only [and_assoc]
    · rfl
    · rfl
  · obtain ⟨heq, _, hroom, _⟩ := State.allocate_spec ha
    have room : State.allocate { s with arb := 0 } (s.profile k).laneCount =
        some (i, { a with arb := 0 }) := by
      rw [State.allocate_arb, ha]
      rfl
    have created := State.preloadNew_eq (s := { a with arb := 0 }) (i := i) (k := k) (cond := cond)
      (m := c.buffer.getD []) (lanes := lanes) (by rw [heq]; exact evaluated _ rfl rfl rfl)
    refine ⟨_, _, carried, State.carryPreload_of_room passes hj hs room, ?_⟩
    rw [created, State.advanceStamp_arb]
    have auto : a.autoReqs = s.autoReqs := by rw [heq]
    have port : a.port = s.port := by rw [heq]; rfl
    have now : a.now = s.now := by rw [heq]
    have prof : a.profile = s.profile := by rw [heq]; rfl
    refine ⟨rfl, ?_, ?_, ?_, ?_⟩
    · rw [← now, ← prof]
      rfl
    · change a.advanceStamp.free - (a.profile k).laneCount + _ = _
      rw [State.advanceStamp_free, prof]
      omega
    · rw [← auto, ← port]
      rfl
    · rw [← port]
      rfl

end Sys2Proof.Machine
end

section
/-! PROOF. The service of port requests at their grant: O40 and O42. -/

namespace Sys2Proof.Machine

/-! ### What a service that is due does -/

section
variable {s : State} {p : PortId} {tag : Byte} {c : ClassId}

theorem State.ifEnabled_of_enabled {k : Key} {f : State → State} (h : s.classEnabled k = true) :
    s.ifEnabled k tag f = f s := if_pos h

theorem exec_lookupService (h : s.RequestDue p tag (.lookup c))
    (hen : s.classEnabled ⟨p, c⟩ = true) :
    exec (.lookupService p) s = .next ((s.takeHead p).serveLookup ⟨p, c⟩ tag) :=
  congrArg Host.Outcome.next ((State.serve_of_due (a := c) h (by rfl)).trans
    (State.ifEnabled_of_enabled hen))

theorem exec_appliedService {g : Nat} (h : s.RequestDue p tag (.applied c g))
    (hen : s.classEnabled ⟨p, c⟩ = true) :
    exec (.appliedService p) s = .next ((s.takeHead p).serveApplied ⟨p, c⟩ tag g) :=
  congrArg Host.Outcome.next ((State.serve_of_due (a := (c, g)) h (by rfl)).trans
    (State.ifEnabled_of_enabled hen))

theorem exec_retireService (h : s.RequestDue p tag (.retire c))
    (hen : s.classEnabled ⟨p, c⟩ = true) :
    exec (.retireService p) s = .next ((s.takeHead p).serveRetire ⟨p, c⟩ tag) :=
  congrArg Host.Outcome.next ((State.serve_of_due (a := c) h (by rfl)).trans
    (State.ifEnabled_of_enabled hen))

theorem exec_parkService (h : s.RequestDue p tag .park) :
    exec (.parkService p) s = .next ((s.takeHead p).servePark p tag) :=
  congrArg Host.Outcome.next (State.serve_of_due (a := ()) h (by rfl))

end

/-! ### LOOKUP and APPLIED (R83, R85) -/

theorem State.ports_touch (s : State) (i : SlotId) : (s.touch i).ports = s.ports := by
  obtain ⟨f, n, h⟩ := s.advanceStamp_eq
  rw [State.touch, h]
  rfl

theorem State.emit_touch (s : State) (i : SlotId) (p : PortId) (f : OutFrame) :
    (s.touch i).emit p f =
      { s.touch i with ports := s.ports.set p ((s.port p).place ⟨f, none⟩) } := by
  rw [State.emit, State.modPort, State.port, State.ports_touch]
  rfl

section
variable {s : State} {k : Key} {tag : Byte}

theorem State.serveLookup_of_some {i : SlotId} {r : Record} (h : s.recordOf k = some (i, r)) :
    s.serveLookup k tag = { s.touch i with
      ports := s.ports.set k.port ((s.port k.port).place ⟨.record tag (s.snapshot r), none⟩) } := by
  rw [State.serveLookup, h, ← State.emit_touch]

theorem State.serveLookup_of_none (h : s.recordOf k = none) :
    s.serveLookup k tag = s.answerAbsent k tag := by rw [State.serveLookup, h]

theorem State.serveApplied_of_some {g : Nat} {i : SlotId} {r : Record}
    (h : s.recordOf k = some (i, r)) : s.serveApplied k tag g =
      if g = r.gen then { s.touch i with
        slots := (s.touch i).slots.set i <|
          ((s.touch i).slot i).mapRecord fun x => { x with applied := some g }
        ports := s.ports.set k.port ((s.port k.port).place ⟨.answer tag .done (some g) none, none⟩) }
      else { s.touch i with
        ports := s.ports.set k.port <|
          (s.port k.port).place ⟨.answer tag .staleGeneration (some r.gen) none, none⟩ } := by
  rw [State.serveApplied, h]
  refine if_congr Iff.rfl ?_ (State.emit_touch ..)
  have ports := s.ports_touch i
  simp only [State.answer, State.emit, State.modPort, State.setSlot, State.port, ports]
  rfl

theorem State.serveApplied_of_none {g : Nat} (h : s.recordOf k = none) :
    s.serveApplied k tag g = s.answerAbsent k tag := by rw [State.serveApplied, h]

end

/-! ### The stamp assigned (R12) -/

/-- Below its maximum the counter goes on, and the record takes it. -/
theorem State.touch_of_lt {s : State} {i : SlotId} {r : Record} (hr : s.slot i = .occupied r)
    (h : s.stamp ≠ Config.stampMax) : s.touch i = { s with
      stamp := s.stamp + 1, slots := s.slots.set i (.occupied { r with stamp := s.stamp + 1 }) } := by
  have advanced : s.advanceStamp = { s with stamp := s.stamp + 1 } := by
    rw [State.advanceStamp, if_neg h]
  have found : State.slot { s with stamp := s.stamp + 1 } i = .occupied r := hr
  rw [State.touch, advanced, found]
  rfl

/-- At its maximum every record is renumbered first. -/
theorem State.touch_of_max {s : State} {i : SlotId} {r : Record} (hr : s.slot i = .occupied r)
    (h : s.stamp = Config.stampMax) :
    (s.touch i = { s with stamp := s.records.length + 1, slots := (s.touch i).slots }) ∧
    (s.touch i).slot i = .occupied { r with stamp := s.records.length + 1 } ∧
    ∀ j, j ≠ i → (s.touch i).slot j = (s.slot j).mapRecord fun x => { x with stamp := s.rank x } := by
  have advanced : s.advanceStamp = { s.renumber with stamp := s.renumber.stamp + 1 } := by
    rw [State.advanceStamp, if_pos h]
  refine ⟨?_, ?_, fun j hj => ?_⟩
  · rw [State.touch, advanced]
    rfl
  · rw [State.slot_touch hr, advanced]
    rfl
  · rw [State.touch, State.slot_setSlot, if_neg hj.symm, advanced]
    exact Table.get_map _ _ _

/-- Settles O40: the two services, the snapshot, the job flags, and the stamp. -/
theorem lookupAndApplied : Obligations.LookupAndApplied := by
  refine ⟨?_, fun _ _ => rfl, fun _ _ => ⟨State.jobQueued_iff, State.jobRunning_iff⟩, ?_⟩
  · rintro s p tag c g hen t absent rfl rfl
    refine ⟨fun hdue => ?_, fun hdue => ?_⟩
    · rw [exec_lookupService hdue hen]
      rcases hr : s.recordOf ⟨p, c⟩ with _ | ⟨i, r⟩
      · exact congrArg _ (State.serveLookup_of_none (s := s.takeHead p) hr)
      · exact congrArg _ (State.serveLookup_of_some (s := s.takeHead p) hr)
    · rw [exec_appliedService hdue hen]
      rcases hr : s.recordOf ⟨p, c⟩ with _ | ⟨i, r⟩
      · exact congrArg _ (State.serveApplied_of_none (s := s.takeHead p) hr)
      · exact congrArg _ (State.serveApplied_of_some (s := s.takeHead p) hr)
  · intro s i r hr
    refine ⟨fun h => State.touch_of_lt hr h, fun h _ => ?_⟩
    obtain ⟨heq, hi, hj⟩ := State.touch_of_max hr h
    refine ⟨_, _, rfl, rfl, heq, hi, fun j hne => ?_⟩
    simp only [List.countP_eq_length_filter]
    exact hj j hne

/-! ### RETIRE and PARK (R60, R95) -/

section
variable {s : State} {k : Key} {tag : Byte}

theorem State.serveRetire_of_pinned {i : SlotId} {r : Record} (h : s.recordOf k = some (i, r))
    (hp : r.pinned = true) :
    s.serveRetire k tag = s.answer k.port tag .pinned (some r.gen) none := by
  rw [State.serveRetire, h]
  exact if_pos hp

theorem State.serveRetire_of_unpinned {i : SlotId} {r : Record} (h : s.recordOf k = some (i, r))
    (hp : r.pinned = false) : s.serveRetire k tag =
      (State.answer { s with slots := s.slots.set i .free, free := s.free + r.laneCount }
        k.port tag .done (some r.gen) none).cancelJobs k := by
  rw [State.serveRetire, h, ← State.releaseSlot_of_occupied (State.recordOf_eq_some.mp h).2]
  exact if_neg (by simp [hp])

theorem State.serveRetire_of_none (h : s.recordOf k = none) : s.serveRetire k tag =
    (s.answer k.port tag .absent none (some ⟨false, false⟩)).cancelJobs k := by
  rw [State.serveRetire, h]

end

/-- Settles O42: RETIRE's answer goes before the removal of training, and PARK is a way out of ONLINE. -/
theorem retireAndPark : Obligations.RetireAndPark := by
  rintro s p tag c hq h1 t rfl
  refine ⟨fun hdue hen => ?_, ?_⟩
  · rw [exec_retireService hdue hen]
    refine ⟨fun i r hr hp => congrArg _ (State.serveRetire_of_pinned (s := s.takeHead p) hr hp),
      fun i r hr hp => ?_, fun hr => ?_⟩
    · rw [State.serveRetire_of_unpinned (s := s.takeHead p) hr hp]
      exact ⟨_, rfl, State.cancelJobs_spec _ ⟨p, c⟩ hq ((s.keepsStore_releaseSlot i).keys h1)⟩
    · rw [State.serveRetire_of_none (s := s.takeHead p) hr]
      exact ⟨_, rfl, State.cancelJobs_spec _ ⟨p, c⟩ hq h1⟩
  · rintro hdue parked rfl
    rw [exec_parkService hdue, State.servePark_eq]
    refine ⟨fun hr => ?_, fun e x hr => ?_⟩
    · have idle : ((s.takeHead p).leave p (((s.takeHead p).port p).parks tag) false).runningPort p =
          none := hr
      rw [State.abandonPort, idle]
      rfl
    · have running : ((s.takeHead p).leave p (((s.takeHead p).port p).parks tag) false).runningPort p =
          some (e, x) := hr
      rw [State.abandonPort, running]
      exact ⟨_, rfl, State.abandon_spec _ e x false x.job.attempts
        (((State.KeepsStore.refl s).loseTemp p false).keys h1)⟩

end Sys2Proof.Machine
end

section
/-! PROOF. The age timer and the store operations of a job: O46, O52, O53 and O54. -/

namespace Sys2Proof.Machine

/-! ### The age timer (R13, R36) -/

theorem State.expireAge_of_not_occupied {s : State} {i : SlotId} (h : ∀ r, s.slot i ≠ .occupied r) :
    s.expireAge i = s := by
  unfold State.expireAge
  split
  · rename_i r hr
    exact absurd hr (h r)
  · rfl
  · rfl

theorem State.expireAge_of_ok {s : State} {i : SlotId} {r : Record} (hr : s.slot i = .occupied r)
    (h : ageOk (s.budget r.key.cls) r.aged.age = true) : s.expireAge i =
      (s.reach (r.ageSince + ms Config.minuteMs)).setSlot i (.occupied r.aged) := by
  simp only [State.expireAge, hr, h, if_true]

theorem State.expireAge_of_old {s : State} {i : SlotId} {r : Record} (hr : s.slot i = .occupied r)
    (h : ageOk (s.budget r.key.cls) r.aged.age = false) : s.expireAge i =
      ((s.reach (r.ageSince + ms Config.minuteMs)).setSlot i (.occupied r.aged)).setCondition i
        .stale := by
  simp only [State.expireAge, hr, h, Bool.false_eq_true, if_false]

/-- Settles O46: the record aged, then its condition taken. -/
theorem ageTimerExpiry : Obligations.AgeTimerExpiry := by
  refine fun s i => ⟨fun h => congrArg _ (State.expireAge_of_not_occupied h), ?_⟩
  intro r r' t hr hr' ht
  obtain rfl : r' = r.aged := hr'
  obtain rfl : t = s.reach (r.ageSince + ms Config.minuteMs) := ht
  refine ⟨fun h => congrArg _ (State.expireAge_of_ok hr (ageOk_iff.mpr h)), fun h0 hle => ?_⟩
  have old : ageOk (s.budget r.key.cls) r.aged.age = false := by
    rw [Bool.eq_false_iff, ne_eq, ageOk_iff]
    exact fun h => h.elim h0 (Nat.not_lt.mpr hle)
  have aged : ((s.reach (r.ageSince + ms Config.minuteMs)).setSlot i (.occupied r.aged)).slot i =
      .occupied r.aged := by simp
  obtain ⟨heq, heff⟩ := State.setCondition_spec _ i (fun _ => .stale) aged
  have stacked : ∀ x, ((s.reach (r.ageSince + ms Config.minuteMs)).setSlot i
      (.occupied r.aged)).slots.set i x = s.slots.set i x := fun _ => Table.set_set _ _ _ _
  rw [stacked] at heq
  refine ⟨_, congrArg Host.Outcome.next (State.expireAge_of_old hr old), heq, ?_⟩
  · have turning : State.turning ((s.reach (r.ageSince + ms Config.minuteMs)).setSlot i
        (.occupied r.aged)) (fun _ => .stale) [i] =
        if r.cond = .stale then [] else [{ r.aged with cond := .stale }] := by
      have kept : r.aged.cond = r.cond := rfl
      by_cases hc : r.cond = .stale <;> simp [State.turning, Slot.record?, kept, hc]
    rw [turning] at heff
    exact heff

/-! ### A key's slot that is not its reservation -/

theorem State.releaseReservation_of_none {s : State} {k : Key} (h : s.slotOf k = none) :
    s.releaseReservation k = s := by simp only [State.releaseReservation, h]

theorem State.releaseReservation_of_occupied {s : State} {k : Key} {i : SlotId} {r : Record}
    (h : s.slotOf k = some i) (hr : s.slot i = .occupied r) : s.releaseReservation k = s := by
  simp only [State.releaseReservation, h, hr]

/-- With no reservation to release, a job's end leaves the store alone (R118, R141). -/
theorem State.endJob_of_no_reservation {s : State} {e : EngineId} {k : Key} {o : JobOutcome}
    {gen : Option Nat} (h : (s.modPort k.port Port.withdraw).releaseReservation k =
      s.modPort k.port Port.withdraw) : s.endJob e k o gen = { s with
      engines := s.engines.set e { s.engine e with ctx := none }
      ports := s.ports.set k.port ((s.port k.port).ended k.cls o gen)
      rescans := s.rescans + 1 } := by
  have ended : s.endRun e k = { s with
      ports := s.ports.set k.port (s.port k.port).withdraw
      engines := s.engines.set e { s.engine e with ctx := none } } := by
    rw [State.endRun, h]
    rfl
  simp only [State.endJob, ended, State.placeEnd_eq, State.rescanAfter, State.port,
    Table.get_set_self, Table.set_set, Port.ended, plainEntry]

/-- A run of a key without a slot has ended once its engine is IDLE. -/
theorem State.runEnded_of_no_slot {s u : State} {e : EngineId} {k : Key} (h : s.slotOf k = none)
    (he : u.engines = s.engines.set e { s.engine e with ctx := none }) (hs : u.slots = s.slots)
    (hf : u.free = s.free) : s.RunEnded u e k := by
  refine ⟨he, fun i => ?_, by rw [hs, hf]⟩
  have kept : u.slot i = s.slot i := by rw [State.slot, hs, State.slot]
  have hk := State.slotOf_eq_none.mp h i
  rw [kept]
  cases hi : s.slot i with
  | free => rfl
  | occupied r => rfl
  | reserved k' n =>
    have hne : k' ≠ k := fun he => hk (by rw [hi, he, Slot.key?])
    simp only [if_neg hne]

/-- A flag raised after a job's end (R185). -/
theorem State.JobEnded.raise {s u : State} {e : EngineId} {k : Key} {o : JobOutcome} {gen : Option Nat}
    {mask : Byte} (h : s.JobEnded u e k o gen mask) (f : EventFlag) :
    s.JobEnded (u.raise f) e k o gen (mask ||| f.mask) := by
  obtain ⟨heq, hrun⟩ := h
  have events : u.events = s.events ||| mask := by rw [heq]
  refine ⟨?_, hrun⟩
  rw [State.raise, events, BitVec.or_assoc]
  conv_lhs => rw [heq]

/-! ### The store operation an engine asks for -/

theorem State.onRequest_of_some {s : State} {e : EngineId} {c : Ctx} {q : StoreRequest}
    {f : Ctx → StoreRequest → State} (hc : (s.engine e).ctx = some c) (hq : c.request = some q) :
    s.onRequest e f = f c q := by simp only [State.onRequest, hc, hq]

/-- Where no request that acts is asked for, nothing is done. -/
theorem State.onRequest_eq_self {s : State} {e : EngineId} {f : Ctx → StoreRequest → State}
    (h : ∀ c ∈ (s.engine e).ctx, ∀ q, c.request = some q → f c q = s) : s.onRequest e f = s := by
  rcases s.onRequest_cases e f with he | ⟨c, q, hc, hq, he⟩
  · exact he
  · exact he.trans (h c hc q hq)

/-! ### RESERVATION (R19, R117) -/

section
variable {s : State} {e : EngineId} {c : Ctx}

theorem State.reserve_of_record {i : SlotId} {r : Record} (h : s.recordOf c.job.key = some (i, r)) :
    s.reserve e c = s.announce e c (some (r.lanes.map LaneEntry.prior)) := by
  simp only [State.reserve, h]

theorem State.reserve_of_slot {i : SlotId} (hs : s.slotOf c.job.key = some i)
    (hr : s.recordOf c.job.key = none) : s.reserve e c = s := by
  simp only [State.reserve, hr, hs]

theorem State.reserve_of_room {i : SlotId} {t : State} (hs : s.slotOf c.job.key = none)
    (ha : s.allocate (s.profile c.job.key).laneCount = some (i, t)) :
    s.reserve e c = (t.reserveSlot i c.job.key).announce e c none := by
  simp only [State.reserve, State.recordOf_of_no_slot hs, hs, ha]

theorem State.reserve_of_full (hs : s.slotOf c.job.key = none)
    (ha : s.allocate (s.profile c.job.key).laneCount = none) :
    s.reserve e c = s.endStoreFull e c.job.key := by
  simp only [State.reserve, State.recordOf_of_no_slot hs, hs, ha]

end

/-- A job that ends STORE_FULL has no slot to give back (R117). -/
theorem State.endStoreFull_spec {s : State} (e : EngineId) {k : Key} (hs : s.slotOf k = none) :
    s.JobEnded (s.endStoreFull e k) e k .storeFull none 0x06#8 := by
  have ended := State.endJob_of_no_reservation (s := s.raise .storeFull) (e := e) (k := k)
    (o := .storeFull) (gen := none) (State.releaseReservation_of_none hs)
  rw [State.endStoreFull, ended]
  refine ⟨?_, State.runEnded_of_no_slot hs rfl rfl rfl⟩
  simp only [State.raise, BitVec.or_assoc]
  rfl

/-- Settles O52: the four cases of the claim on the store. -/
theorem reservation : Obligations.Reservation := by
  refine fun s e => ⟨fun h => congrArg _ (State.onRequest_eq_self fun c hc q hq => ?_), ?_⟩
  · exact if_neg fun he : q = .reserve => h c hc (he ▸ hq)
  · rintro c _ hc hq rfl announced hann
    have reserved : exec (.reservation e) s = .next (s.reserve e c) :=
      congrArg _ ((State.onRequest_of_some hc hq).trans (if_pos rfl))
    have announces : ∀ t prior, t.announce e c prior = announced t prior := fun t prior => by
      rw [hann]
      rfl
    rw [reserved]
    refine ⟨fun i r hr => congrArg _ ((State.reserve_of_record hr).trans (announces ..)),
      fun i t hs ha => congrArg _ ((State.reserve_of_room hs ha).trans ?_),
      fun hs ha => ⟨_, congrArg _ (State.reserve_of_full hs ha), State.endStoreFull_spec e hs⟩,
      fun i hs hr => congrArg _ (State.reserve_of_slot hs hr)⟩
    obtain ⟨heq, _⟩ := State.allocate_spec ha
    have prof : t.profile = s.profile := by
      rw [heq]
      rfl
    rw [State.reserveSlot, prof]
    exact announces ..

/-! ### COMMIT (R21, R22, R38) -/

theorem State.steady_iff {s : State} {c : Ctx} : s.steady c = true ↔ s.MayCommit c := by
  unfold State.steady State.MayCommit
  cases (s.port c.job.key.port).temp <;> simp [moved]

theorem Ctx.outcome_eq (c : Ctx) :
    c.outcome = if .failed ∈ c.results then .part else .committed := by
  rw [Ctx.outcome]
  refine if_congr ?_ rfl rfl
  simp

theorem State.commit_of_occupied {s : State} {e : EngineId} {c : Ctx} {i : SlotId} {r : Record}
    (hi : s.slotOf c.job.key = some i) (hr : s.slot i = .occupied r) : s.commit e c =
      (s.setSlot i (.occupied (c.rewrite r s.now))).endJob e c.job.key c.outcome
        (some (nextGen r.gen)) := by
  simp only [State.commit, hi, hr]

theorem State.commit_of_reserved {s : State} {e : EngineId} {c : Ctx} {i : SlotId} {k : Key} {n : Nat}
    (hi : s.slotOf c.job.key = some i) (hr : s.slot i = .reserved k n) : s.commit e c =
      (s.advanceStamp.setSlot i (.occupied (c.newRecord s.advanceStamp.stamp s.now n))).endJob e
        c.job.key c.outcome (some 1) := by
  simp only [State.commit, hi, hr]

/-- Once a record stands in the key's slot, there is no reservation to release. -/
theorem State.releaseReservation_setSlot {s t : State} {k : Key} {i : SlotId} {r : Record}
    (hi : s.slotOf k = some i) (ht : ∀ j, (t.slot j).key? = (s.slot j).key?) (hr : r.key = k)
    (f : Port → Port) : ((t.setSlot i (.occupied r)).modPort k.port f).releaseReservation k =
      (t.setSlot i (.occupied r)).modPort k.port f := by
  refine State.releaseReservation_of_occupied (i := i) (r := r) ?_ (by simp)
  rw [State.slotOf_congr (s := s) fun j => ?_]
  · exact hi
  · rw [State.slot_modPort, State.slot_setSlot]
    split_ifs with hij
    · rw [← hij, State.key_of_slotOf hi, Slot.key?, hr]
    · exact ht j

/-- Settles O53: the record written, then the job's end with nothing to release. -/
theorem commit : Obligations.Commit := by
  refine fun s e => ⟨fun h => congrArg _ (State.onRequest_eq_self fun c hc q hq => ?_), ?_⟩
  · exact if_neg fun he : q = .commit ∧ s.steady c = true =>
      h c hc (he.1 ▸ hq) (State.steady_iff.mp he.2)
  · rintro c _ i hc hq hmay rfl hi o ho
    obtain rfl : o = c.outcome := ho.trans c.outcome_eq.symm
    have committed : exec (.commit e) s = .next (s.commit e c) :=
      congrArg _ ((State.onRequest_of_some hc hq).trans (if_pos ⟨rfl, State.steady_iff.mpr hmay⟩))
    rw [committed]
    refine ⟨?_, ?_⟩
    · rintro r hr g rfl
      have hkey : (c.rewrite r s.now).key = c.job.key := by
        have := State.key_of_slotOf hi
        rw [hr] at this
        exact Option.some_inj.mp this
      rw [State.commit_of_occupied hi hr, State.endJob_of_no_reservation
        (State.releaseReservation_setSlot hi (fun _ => rfl) hkey _)]
      rfl
    · rintro k n hr t rfl
      obtain ⟨f, m, hadv⟩ := s.advanceStamp_eq
      have keys : ∀ j, (s.advanceStamp.slot j).key? = (s.slot j).key? := fun j => by
        obtain ⟨g, hg⟩ := s.slot_advanceStamp
        rw [hg, Slot.key?_mapRecord_stamp]
      rw [State.commit_of_reserved hi hr, State.endJob_of_no_reservation
        (State.releaseReservation_setSlot hi keys (by rfl) _), hadv]
      rfl

/-! ### NO_EYE and FAILURE_OPERATION (R138, R145) -/

theorem State.setHoldOff_of_some {s : State} {k : Key} {i : SlotId} {r : Record}
    (h : s.recordOf k = some (i, r)) :
    s.setHoldOff k = { s with slots := s.slots.set i (.occupied { r with holdOff := true }) } := by
  simp only [State.setHoldOff, h, State.setSlot]

theorem State.setHoldOff_of_none {s : State} {k : Key} (h : s.recordOf k = none) :
    s.setHoldOff k = s := by
  simp only [State.setHoldOff, h]

theorem State.endFailed_spec {s : State} (e : EngineId) (c : Ctx) (o : JobOutcome)
    (h : s.OneSlotPerKey) :
    (s.setHoldOff c.job.key).JobEnded (s.endFailed e c o) e c.job.key o none 0x02#8 :=
  (State.endJob_spec _ e c.job.key o none (((State.KeepsStore.refl s).setHoldOff _).keys h)).raise
    .jobFailed

/-- Settles O54: the hold-off set, then the job's end and JOB_FAILED. -/
theorem failedEnds : Obligations.FailedEnds := by
  refine fun s e h1 => ⟨fun h => congrArg _ (State.onRequest_eq_self fun c hc q hq => ?_),
    fun h => congrArg _ (State.onRequest_eq_self fun c hc q hq => ?_), ?_⟩
  · exact if_neg fun he : q = .noEye => h c hc (he ▸ hq)
  · cases q with
    | failure o => exact absurd hq (h c hc o)
    | reserve => rfl
    | commit => rfl
    | noEye => rfl
  · rintro c _ t hc rfl ht
    have held : s.setHoldOff c.job.key = t := by
      rw [ht]
      rcases hr : s.recordOf c.job.key with _ | ⟨i, r⟩
      · exact State.setHoldOff_of_none hr
      · exact State.setHoldOff_of_some hr
    rw [← held]
    refine ⟨fun hq => ⟨s.endFailed e c .noEye, ?_, State.endFailed_spec e c .noEye h1⟩,
      fun o hq => ⟨s.endFailed e c o, ?_, State.endFailed_spec e c o h1⟩⟩
    · exact congrArg _ ((State.onRequest_of_some hc hq).trans (if_pos rfl))
    · exact congrArg _ (State.onRequest_of_some hc hq)

end Sys2Proof.Machine
end

section
/-! PROOF. What resets leave: O4, O5 and O56. -/

namespace Sys2Proof.Machine

/-! ### A state with nothing stored -/

section
variable {s : State}

theorem State.slotOf_of_free (h : ∀ i, s.slot i = .free) (k : Key) : s.slotOf k = none :=
  State.slotOf_eq_none.mpr fun i => by simp [h, Slot.key?]

/-- The first allocation takes slot 0 (R1). -/
theorem State.allocate_of_free (h : ∀ i, s.slot i = .free) {n : Nat} (hn : n ≤ s.free) :
    s.allocate n = some (0, s) := by
  have lowest : s.lowestFree = some 0 := by
    simp only [State.lowestFree, h]
    rfl
  simp only [State.allocate, lowest, if_pos hn]

end

@[simp] theorem State.slot_hardReset (s : State) (i : SlotId) : s.hardReset.slot i = .free :=
  Table.get_fill _ _

@[simp] theorem State.slot_softReset (s : State) (alert : Bool) (i : SlotId) :
    (s.softReset alert).slot i = .free := Table.get_fill _ _

/-! ### Hardware reset -/

/-- Settles O4: the reset state, table by table. -/
theorem hardwareResetState : Obligations.HardwareResetState := by
  intro s
  refine ⟨s.hardReset, rfl, rfl, s.slot_hardReset, State.slotOf_of_free s.slot_hardReset, rfl, rfl,
    fun n hn => State.allocate_of_free s.slot_hardReset hn, rfl, rfl, rfl, rfl, rfl,
    fun p => Table.get_fill _ _, rfl, rfl, rfl, rfl, rfl, fun e => Table.get_fill _ _, rfl, rfl,
    fun g => Table.get_fill _ _, rfl, fun g => Table.get_fill _ _, rfl, rfl, rfl, rfl, rfl, rfl, rfl,
    fun k => ?_, rfl, fun w => Table.get_fill _ _, rfl, rfl, rfl, rfl, rfl, rfl⟩
  change (Table.get (Table.fill 8 (Table.fill 4 Profile.reset)) k.port).get k.cls = _
  rw [Table.get_fill, Table.get_fill]
  rfl

/-! ### Soft reset -/

/-- Settling leaves the commands to come and the SPI transaction (R174). -/
theorem State.settle_keeps (s : State) : s.settle.pending = s.pending ∧ s.settle.spi = s.spi := by
  rcases s.settle_cases with e | ⟨c, _, ⟨_, e⟩ | ⟨_, e⟩ | ⟨_, e⟩ | ⟨_, e⟩⟩ <;> rw [e]
  · exact ⟨rfl, rfl⟩
  · unfold State.carryEnablePort
    split
    · exact ⟨rfl, rfl⟩
    · split_ifs <;> exact ⟨rfl, rfl⟩
  · unfold State.carryClearHold
    split
    · exact ⟨rfl, rfl⟩
    · split_ifs <;> exact ⟨rfl, rfl⟩
  · unfold State.carryGetProfile
    split <;> exact ⟨rfl, rfl⟩
  · exact ⟨rfl, rfl⟩

/-- Settles O5: the reset state but for what is kept of the settled one. -/
theorem softResetState : Obligations.SoftResetState := by
  intro alert s
  obtain ⟨hpending, hspi⟩ := s.settle_keeps
  have free := s.settle.slot_softReset alert
  refine ⟨s.settle.softReset alert, rfl, hpending, rfl, free, State.slotOf_of_free free, rfl, rfl,
    fun p => Table.get_map _ _ _, rfl, rfl, fun e => Table.get_fill _ _, rfl, rfl,
    fun g => Table.get_fill _ _, rfl, fun g => Table.get_fill _ _, rfl, rfl, rfl,
    fun c => Table.get_map _ _ _, rfl, rfl, rfl, rfl, rfl, rfl, rfl, rfl, fun w => Table.get_fill _ _,
    rfl, ?_, rfl, rfl, rfl, ?_⟩
  · rw [← hspi]
    rfl
  · simp [State.alertLow, State.softReset, State.reset]

/-! ### The invariants at reset -/

theorem State.slot_reset (i : SlotId) : State.reset.slot i = .free := Table.get_fill _ _

theorem State.engine_reset (e : EngineId) : State.reset.engine e = Engine.reset := Table.get_fill _ _

theorem State.port_reset (p : PortId) : State.reset.port p = Port.reset := Table.get_fill _ _

theorem State.profile_reset (k : Key) : State.reset.profile k = Profile.reset := by
  rw [State.profile, State.reset]
  simp only [Table.get_fill]

/-- Settles O56: nothing is stored, running or listed, and the parameters stand at their defaults. -/
theorem invariantsAtReset : Obligations.InvariantsAtReset := by
  have noRecord : ∀ {i r}, r ∈ (State.reset.slot i).record? → False := fun {i r} h => by
    simp [State.slot_reset, Slot.record?] at h
  have noCtx : ∀ {e c}, c ∈ (State.reset.engine e).ctx → False := fun {e c} h => by
    simp [State.engine_reset, Engine.reset] at h
  have joined : State.reset.Joined := State.joined_iff.mpr State.Fits.reset
  obtain ⟨one, queue, ports, _⟩ := id joined
  refine ⟨rfl, one, ⟨Nat.zero_le _, fun i r h => (noRecord h).elim, fun i j r h => (noRecord h).elim⟩,
    fun i r h => (noRecord h).elim, ports, fun p => ?_, joined,
    ⟨queue, ports, fun e c h => (noCtx h).elim, fun i r h => (noRecord h).elim,
      fun e c h => (noCtx h).elim⟩, ?_, ⟨rfl, nofun⟩⟩
  · rw [State.port_reset]
    exact ⟨by decide, by decide, by decide, nofun⟩
  · refine ⟨by decide, by decide, by decide, by decide, by decide, by decide, ?_, fun k => ?_, by decide⟩
    · unfold Budget.InRange
      decide
    · rw [State.profile_reset]
      decide

end Sys2Proof.Machine
end

section
/-! PROOF. The Scheduler's events and the expiry of freshness: O45 and O48. -/

namespace Sys2Proof.Machine

/-! ### The Scheduler's events (R45, R104, R105, R113) -/

section
variable {s : State}

theorem State.departStart_of_nil (h : s.startList = []) : s.departStart = s := by
  simp only [State.departStart, h]

theorem State.departStart_of_cons {t : Nat} {rest : List Nat} (h : s.startList = t :: rest) :
    s.departStart =
      { s with now := max s.now (t + s.trw * 25000), startList := rest, decision := true } := by
  simp only [State.departStart, h]
  rfl

theorem State.expireSpaceAny_of_none (h : s.spaceAnyTimer = none) : s.expireSpaceAny = s := by
  simp only [State.expireSpaceAny, h]

theorem State.expireSpaceAny_of_some {m : Nat} (h : s.spaceAnyTimer = some m) : s.expireSpaceAny =
    { s with now := max s.now m, spaceAnyTimer := none, decision := true } := by
  simp only [State.expireSpaceAny, h]
  rfl

theorem State.expireSpaceGroup_of_none {g : GroupId} (h : s.spaceGroupTimer.get g = none) :
    s.expireSpaceGroup g = s := by
  simp only [State.expireSpaceGroup, h]

theorem State.expireSpaceGroup_of_some {g : GroupId} {m : Nat} (h : s.spaceGroupTimer.get g = some m) :
    s.expireSpaceGroup g = { s with
      now := max s.now m, spaceGroupTimer := s.spaceGroupTimer.set g none, decision := true } := by
  simp only [State.expireSpaceGroup, h]
  rfl

theorem State.takeAutoRequest_of_nil (h : s.autoReqs = []) : s.takeAutoRequest = s := by
  simp only [State.takeAutoRequest, h]

theorem State.takeAutoRequest_of_cons {k : Key} {rest : List Key} (h : s.autoReqs = k :: rest) :
    s.takeAutoRequest = if (s.port k.port).state = .offline then { s with autoReqs := rest }
      else State.enqueueAuto { s with autoReqs := rest } k := by
  simp only [State.takeAutoRequest, h]

theorem State.enqueueAuto_of_taken {k : Key} (h : (s.enqueue k .auto .routine).2 ≠ .trainingFull) :
    s.enqueueAuto k = (s.enqueue k .auto .routine).1 := by
  simp only [State.enqueueAuto, if_neg h]

/-- A refused enqueue changes nothing but for the start decision that follows (R104). -/
theorem State.enqueue_of_full {k : Key} {o : JobOrigin} {u : Urgency}
    (h : (s.enqueue k o u).2 = .trainingFull) : (s.enqueue k o u).1 = s.decide := by
  unfold State.enqueue at h ⊢
  by_cases hr : s.jobRunning k = true
  · simp [hr] at h
  rw [if_neg hr] at h ⊢
  cases hf : s.queued.find? fun j => j.key == k with
  | some j =>
    simp only [hf] at h
    split_ifs at h
  | none =>
    simp only [hf] at h ⊢
    split_ifs at h ⊢
    rfl

theorem State.enqueueAuto_of_full {k : Key} (h : (s.enqueue k .auto .routine).2 = .trainingFull) :
    s.enqueueAuto k = s.decide.raise .queueFull := by
  simp only [State.enqueueAuto, if_pos h, State.enqueue_of_full h]

end

/-- Settles O48: each event as its definition says, the enqueue by its answer. -/
theorem schedulerEvents : Obligations.SchedulerEvents := by
  intro s
  refine ⟨fun h => congrArg _ (State.departStart_of_nil h),
    fun t rest h => congrArg _ (State.departStart_of_cons h),
    fun h => congrArg _ (State.expireSpaceAny_of_none h),
    fun m h => congrArg _ (State.expireSpaceAny_of_some h),
    fun g h => congrArg _ (State.expireSpaceGroup_of_none h),
    fun g m h => congrArg _ (State.expireSpaceGroup_of_some h),
    fun h => congrArg _ (State.takeAutoRequest_of_nil h), fun k rest h t ht => ?_⟩
  obtain rfl := ht
  have taken : exec .autoRequest s = _ := congrArg Host.Outcome.next (State.takeAutoRequest_of_cons h)
  rw [taken]
  refine ⟨fun ho => by rw [if_pos ho], fun ho => ⟨fun he => ?_, fun he => ?_⟩⟩
  · rw [if_neg ho, State.enqueueAuto_of_taken he]
  · rw [if_neg ho, State.enqueueAuto_of_full he]
    rfl

/-! ### FRESHNESS_EXPIRY (R32, R141, R150) -/

/-- Losing the temperature makes a CURRENT record of the port DORMANT (R32). -/
theorem Record.onTempLost_false (p : PortId) (r : Record) : r.onTempLost p false =
    if r.key.port = p ∧ r.cond = .current then { r with cond := .dormant } else r := by
  by_cases hp : r.key.port = p <;> by_cases hc : r.cond = .current <;>
    simp [Record.onTempLost, hp, hc]

section
variable {s : State} {p : PortId}

theorem State.abandonPort_of_some {e : EngineId} {c : Ctx} (h : s.runningPort p = some (e, c))
    (sends : Bool) : s.abandonPort p sends = s.abandon e c sends c.job.attempts := by
  simp only [State.abandonPort, h]

theorem State.abandonPort_of_none (h : s.runningPort p = none) (sends : Bool) :
    s.abandonPort p sends = s := by
  simp only [State.abandonPort, h]

theorem State.expireFreshness_of_unknown (h : (s.port p).temp = .unknown) :
    s.expireFreshness p = s := by
  simp only [State.expireFreshness, h]

theorem State.expireFreshness_of_fresh {v : Int} {timer : Timer} (h : (s.port p).temp = .fresh v timer) :
    s.expireFreshness p = (((s.reach timer.due).loseTemp p false).abandonPort p true).decide := by
  simp only [State.expireFreshness, h]

end

/-- Settles O45: the temperature lost, then the port's job abandoned. -/
theorem freshnessExpiry : Obligations.FreshnessExpiry := by
  intro s p
  refine ⟨fun h => congrArg _ (State.expireFreshness_of_unknown h), fun v timer ht t htdef => ?_,
    fun h => State.abandonPort_of_none h false, fun e c h h1 => ?_⟩
  · have lost : t = (s.reach timer.due).loseTemp p false := by
      rw [htdef, State.loseTemp_eq, show Record.onTempLost p false = _ from
        funext (Record.onTempLost_false p)]
      rfl
    have expired : exec (.freshnessExpiry p) s = .next (t.abandonPort p true).decide := by
      rw [lost]
      exact congrArg _ (State.expireFreshness_of_fresh ht)
    have running : t.runningPort p = s.runningPort p := by rw [lost]; rfl
    rw [expired]
    refine ⟨fun h => ?_, fun e c h h1 => ⟨_, rfl, ?_⟩⟩
    · rw [State.abandonPort_of_none (running.trans h)]
      rfl
    · have one : t.OneSlotPerKey := by
        rw [lost]
        exact (((State.KeepsStore.refl s).reach timer.due).loseTemp p false).keys h1
      rw [State.abandonPort_of_some (running.trans h)]
      exact t.abandon_spec e c true c.job.attempts one
  · rw [State.abandonPort_of_some h]
    exact s.abandon_spec e c false c.job.attempts h1

end Sys2Proof.Machine
end

section
/-! PROOF. Writes of a class parameter and TEMP, with the evaluation each makes: O10 and O28. -/

namespace Sys2Proof.Machine

/-! ### What an evaluation leaves of the ports (R44) -/

@[simp] theorem Port.placeNotice_temp (c : ClassId) (k : NoticeKind) (g : Nat) (x : Port) :
    (x.placeNotice c k g).temp = x.temp := by simp [Port.placeNotice, Port.removePending]

theorem foldl_staleNotice_temp (p : PortId) (l : List Record) (x : Port) :
    (l.foldl (staleNotice p) x).temp = x.temp := by
  induction l generalizing x with
  | nil => rfl
  | cons r l ih =>
    rw [List.foldl_cons, ih, staleNotice]
    split_ifs <;> simp

theorem State.StaleEffects.temp {s t : State} {l : List Record} (h : s.StaleEffects t l) (p : PortId) :
    (t.port p).temp = (s.port p).temp := by
  obtain ⟨hports, _⟩ := h
  rw [hports p]
  exact foldl_staleNotice_temp p l (s.port p)

/-! ### Writes of a class parameter (R40 to R43, R171) -/

/-- What a budget write leaves of a condition, in the words of the statement (R41). -/
theorem State.afterBudget_eq (s : State) (c : ClassId) (b : Budget) (r : Record) :
    s.afterBudget c b r = if r.key.cls = c then r.onBudget b (s.port r.key.port).temp else r.cond := by
  by_cases hc : r.key.cls = c
  · cases hcond : r.cond <;> cases ht : (s.port r.key.port).temp <;>
      simp [State.afterBudget, Record.onBudget, hc, hcond, ht, Record.fit_iff]
  · simp [State.afterBudget, hc]

/-- An in-range write: the parameter taken, and the class's records evaluated with it (R40, R41). -/
theorem State.budgetTaken_evaluateBudget (s : State) (c : ClassId) (b : Budget) :
    s.BudgetTaken ((s.setBudget c b).evaluateBudget c) c b ∧
      ((s.setBudget c b).evaluateBudget c).engines = s.engines := by
  have hb : (s.setBudget c b).budget c = b := Table.get_set_self _ _ _
  have after : (s.setBudget c b).evaluateBudget c = (s.setBudget c b).evaluate (s.afterBudget c b) :=
    congrArg (State.evaluate _) (funext fun r => by rw [hb, State.afterBudget_eq]; rfl)
  obtain ⟨heq, hev⟩ := (s.setBudget c b).evaluate_spec (s.afterBudget c b)
  rw [after]
  generalize (s.setBudget c b).evaluate (s.afterBudget c b) = t at heq hev
  have engines : t.engines = s.engines := (congrArg State.engines heq :)
  refine ⟨⟨?_, hev⟩, engines⟩
  rw [engines]
  exact heq

/-- The tests handed to an engine after a write of a drift budget (R42). -/
def State.budgetTests (s : State) (c : ClassId) (x : Engine) : List TempTest :=
  match x.ctx with
  | some ctx =>
    (match (s.port ctx.job.key.port).temp with
      | .fresh w _ => if ctx.job.key.cls = c then [⟨ctx.job.key.port, w⟩] else []
      | .unknown => [])
  | none => []

theorem State.budgetTests_congr {s t : State} (h : ∀ p, (t.port p).temp = (s.port p).temp)
    (c : ClassId) (x : Engine) : t.budgetTests c x = s.budgetTests c x := by
  simp only [State.budgetTests, h]

theorem State.engine_handBudgetTests (s : State) (c : ClassId) (e : EngineId) :
    (s.handBudgetTests c).engine e =
      { s.engine e with tests := (s.engine e).tests ++ s.budgetTests c (s.engine e) } := by
  have row : (s.handBudgetTests c).engine e = (match (s.engine e).ctx with
      | none => s.engine e
      | some ctx =>
        match (s.port ctx.job.key.port).temp with
        | .fresh v _ =>
          if ctx.job.key.cls = c then
            { s.engine e with tests := (s.engine e).tests ++ [⟨ctx.job.key.port, v⟩] }
          else s.engine e
        | .unknown => s.engine e) := Table.get_map _ _ _
  rw [row, State.budgetTests]
  generalize s.engine e = x
  cases hc : x.ctx with
  | none => simp
  | some ctx =>
    cases ht : (s.port ctx.job.key.port).temp with
    | unknown => simp [ht]
    | fresh w timer => by_cases hk : ctx.job.key.cls = c <;> simp [ht, hk]

/-- Two bytes hold the number of the word they spell (R189). -/
theorem fromLe16_eq (lo hi : Byte) : fromLe16 lo hi = (hi ++ lo : BitVec 16).toNat := by
  have hlo : lo.toNat < 2 ^ 8 := lo.isLt
  rw [BitVec.toNat_append, ← Nat.shiftLeft_add_eq_or_of_lt hlo, Nat.shiftLeft_eq, fromLe16]
  omega

section
variable {s : State} {c : ClassId} {v : Byte}

theorem State.writeDriftBudget_of_range (h : 1 ≤ v.toNat ∧ v.toNat ≤ 63) : s.writeDriftBudget c v =
    ((s.setBudget c { s.budget c with drift := v.toNat }).evaluateBudget c).handBudgetTests c := by
  rw [State.writeDriftBudget, if_pos h]

theorem State.writeDriftBudget_of_not (h : ¬(1 ≤ v.toNat ∧ v.toNat ≤ 63)) :
    s.writeDriftBudget c v = s := by
  rw [State.writeDriftBudget, if_neg h]

theorem State.writeTrimLimit_of_range (h : 1 ≤ v.toNat ∧ v.toNat ≤ 15) : s.writeTrimLimit c v =
    (s.setBudget c { s.budget c with trimLimit := v.toNat }).evaluateBudget c := by
  rw [State.writeTrimLimit, if_pos h]

theorem State.writeTrimLimit_of_not (h : ¬(1 ≤ v.toNat ∧ v.toNat ≤ 15)) :
    s.writeTrimLimit c v = s := by
  rw [State.writeTrimLimit, if_neg h]

theorem State.writeAgeLimit_of_range (h : (s.budget c).ageValue v ≤ 1023) : s.writeAgeLimit c v =
    (s.setBudget c { s.budget c with
      ageLimit := (s.budget c).ageValue v, ageHeld := none }).evaluateBudget c := by
  rw [State.writeAgeLimit]
  exact if_pos h

theorem State.writeAgeLimit_of_not (h : ¬(s.budget c).ageValue v ≤ 1023) :
    s.writeAgeLimit c v = s.setBudget c { s.budget c with ageHeld := none } := by
  rw [State.writeAgeLimit]
  exact if_neg h

end

/-- Handing out the tests changes the engines' waiting tests alone (R42). -/
theorem State.BudgetTaken.handed {s t : State} {c : ClassId} {b : Budget} (h : s.BudgetTaken t c b) :
    s.BudgetTaken (t.handBudgetTests c) c b := by
  obtain ⟨heq, hev⟩ := h
  refine ⟨?_, hev⟩
  generalize hu : t.handBudgetTests c = u
  have handed : u = { t with engines := u.engines } := by rw [← hu]; rfl
  rw [handed]
  rw [heq]

/-- Settles O10: an in-range write is the parameter taken and the class evaluated. -/
theorem budgetWrites : Obligations.BudgetWrites := by
  intro c v s
  have drift : exec (.driftBudgetWrite c v) s = .next (s.settle.writeDriftBudget c v) := rfl
  have trim : exec (.trimLimitWrite c v) s = .next (s.settle.writeTrimLimit c v) := rfl
  have age : exec (.ageLimitWrite c v) s = .next (s.settle.writeAgeLimit c v) := rfl
  rw [drift, trim, age]
  generalize s.settle = u
  refine ⟨fun h => ?_, fun h => ?_, fun h => ?_, fun h => ?_, fun low hlow => ?_⟩
  · obtain ⟨taken, engines⟩ := u.budgetTaken_evaluateBudget c { u.budget c with drift := v.toNat }
    rw [State.writeDriftBudget_of_range h]
    refine ⟨_, rfl, taken.handed, fun e => ?_⟩
    obtain ⟨_, _, effects⟩ := taken
    rw [State.engine_handBudgetTests, State.budgetTests_congr effects.temp]
    simp only [State.engine, engines]
    rfl
  · rw [State.writeDriftBudget_of_not h]
  · rw [State.writeTrimLimit_of_range h]
    exact ⟨_, rfl, u.budgetTaken_evaluateBudget c _⟩
  · rw [State.writeTrimLimit_of_not h]
  · have value : (u.budget c).ageValue v = (v ++ low : BitVec 16).toNat := by
      rw [hlow, ← fromLe16_eq]
      rfl
    rw [← value]
    refine ⟨fun h => ?_, fun h => ?_⟩
    · rw [State.writeAgeLimit_of_range h]
      exact ⟨_, rfl, u.budgetTaken_evaluateBudget c _⟩
    · rw [State.writeAgeLimit_of_not (Nat.not_le.mpr h)]
      rfl

/-! ### TEMP (R31, R35, R58, R61) -/

/-- The condition a TEMP gives a record, in the words of the statement (R35). -/
theorem State.tempCondition_eq (s : State) (p : PortId) (v : Int) (r : Record) :
    s.tempCondition p v r = if r.key.port = p then r.onTemp (s.budget r.key.cls) v else r.cond := by
  by_cases hp : r.key.port = p
  · cases hc : r.cond
    · simp [State.tempCondition, Record.onTemp, hp, hc, driftOk]
    · simp [State.tempCondition, Record.onTemp, hp, hc]
    · simp [State.tempCondition, Record.onTemp, hp, hc, Record.fit_iff, and_assoc]
  · simp [State.tempCondition, hp]

/-- A temperature handed over is a test more at the engine of the port's job (R31). -/
theorem State.handTest_eq (s : State) (p : PortId) (v : Int) : s.handTest p v = { s with
    engines := match s.runningPort p with
      | some (e, _) => s.engines.set e { s.engine e with tests := (s.engine e).tests ++ [⟨p, v⟩] }
      | none => s.engines } := by
  rw [State.handTest]
  cases s.runningPort p <;> rfl

/-- A good frame, well-formed, is acted on in SYNCING, ONLINE and PARKED (R67). -/
theorem State.takeFrame_of_good {α : Type} {s : State} {p : PortId} (tag : Byte) (a : α)
    (act : State → α → State) (ho : (s.port p).state ≠ .offline) (hh : (s.port p).state ≠ .held) :
    s.takeFrame p tag (some a) act = act (s.framed p) a := by
  unfold State.takeFrame State.framed
  cases hs : (s.port p).state with
  | offline => exact absurd hs ho
  | held => exact absurd hs hh
  | syncing => rfl
  | online => rfl
  | parked => rfl

theorem exec_temp {s : State} {p : PortId} (tag lo hi : Byte) (ho : (s.port p).state ≠ .offline)
    (hh : (s.port p).state ≠ .held) : exec (.temp p tag [lo, hi]) s =
      .next ((s.framed p).takeTemp p (hi ++ lo : BitVec 16).toInt) := by
  rw [← signed16_eq]
  exact congrArg Host.Outcome.next (State.takeFrame_of_good tag _ _ ho hh)

theorem State.framed_state (s : State) (p : PortId) : ((s.framed p).port p).state = (s.port p).state := by
  simp [State.framed]

theorem State.takeTemp_of_accepted {s : State} {p : PortId} {v : Int} (h : (s.port p).state = .online)
    (hv : validTemp v = true) : s.takeTemp p v = s.acceptTemp p v := by
  rw [State.takeTemp, if_pos ⟨h, hv⟩]

theorem State.takeTemp_of_discarded {s : State} {p : PortId} {v : Int}
    (h : (s.port p).state = .online → validTemp v = false) : s.takeTemp p v = s := by
  rw [State.takeTemp, if_neg]
  rintro ⟨hs, hv⟩
  simp [h hs] at hv

/-- Settles O28: the good frame, and in ONLINE a valid temperature accepted. -/
theorem temp : Obligations.Temp := by
  rintro p tag lo hi s v rfl
  have good := fun ho hh => exec_temp (s := s) (p := p) tag lo hi ho hh
  generalize (hi ++ lo : BitVec 16).toInt = v at good ⊢
  refine ⟨fun hs h1 h2 s' hs' => ?_, fun hs hv => ?_, fun hs => ?_⟩
  · rw [good (by simp [hs]) (by simp [hs]), State.takeTemp_of_accepted ((s.framed_state p).trans hs)
      (validTemp_iff.mpr ⟨h1, h2⟩)]
    have fresh : (s.framed p).modPort p (fun x =>
        { x with temp := .fresh v ⟨s.now, ms (10 * s.freshTime)⟩ }) = s' := by
      rw [hs', State.framed, State.modPort_modPort, ms, Config.cyclesPerMs, Nat.mul_right_comm,
        Nat.mul_comm _ s.freshTime]
      rfl
    obtain ⟨heq, hev⟩ := s'.evaluate_spec (s.tempCondition p v)
    have evaluated : s'.evaluateTemp p v = s'.evaluate (s.tempCondition p v) :=
      congrArg (State.evaluate _) (funext fun r => by rw [State.tempCondition_eq, hs']; rfl)
    have accepted : (s.framed p).acceptTemp p v =
        ((s'.evaluate (s.tempCondition p v)).handTest p v).decide := by
      rw [← evaluated, ← fresh]
      rfl
    rw [accepted]
    generalize s'.evaluate (s.tempCondition p v) = u at heq hev ⊢
    have engines : u.engines = s.engines := by
      rw [heq, hs']
    have running : u.runningPort p = s.runningPort p := by
      simp only [State.runningPort, State.runningWhere, State.engine, engines]
    have engine : u.engine = s.engine := by
      simp only [funext_iff, State.engine, engines, implies_true]
    rw [State.handTest_eq, running, engines, engine]
    refine ⟨_, rfl, ?_, hev⟩
    rw [heq]
    rfl
  · rw [good (by simp [hs]) (by simp [hs]), State.takeTemp_of_discarded fun _ => ?_]
    rw [Bool.eq_false_iff, ne_eq, validTemp_iff]
    omega
  · rw [good (by rcases hs with h | h <;> simp [h]) (by rcases hs with h | h <;> simp [h]),
      State.takeTemp_of_discarded fun h => ?_]
    rw [s.framed_state] at h
    simp [h] at hs

end Sys2Proof.Machine
end

section
/-! PROOF. The output list of one port within its bounds, through each change of a port (R72 to R74). -/

namespace Sys2Proof.Machine

/-! ### The bounds of one port -/

/-- Kinds of frames of which at most one waits: NAK, and the NOTICE of each class (R73, R74). -/
def OutFrame.Sole (q : OutFrame → Bool) : Prop := q = (· == .nak) ∨ ∃ c, q = OutFrame.isNoticeFor c

/-- A frame that is neither a NAK nor a NOTICE. -/
def OutFrame.Plain (f : OutFrame) : Prop := ∀ q, OutFrame.Sole q → q f = false

/-- A list of at most 24 frames, one of each sole kind waiting, and each held-back frame waiting for a
listed frame or for none (R72 to R74). -/
structure Port.Bounded (x : Port) : Prop where
  room : x.outLen ≤ Config.listDepth
  sole : ∀ q, OutFrame.Sole q → x.waitingFrames q ≤ 1
  waits : ∀ h ∈ x.heldBack, h.waits ≤ x.outLen

theorem Port.bounded_iff (x : Port) : x.Bounded ↔ x.outLen ≤ Config.listDepth ∧
    x.waitingFrames (· == .nak) ≤ 1 ∧ (∀ c, x.waitingFrames (OutFrame.isNoticeFor c) ≤ 1) ∧
      ∀ h ∈ x.heldBack, h.waits ≤ x.outLen := by
  constructor
  · rintro ⟨room, sole, waits⟩
    exact ⟨room, sole _ (.inl rfl), fun c => sole _ (.inr ⟨c, rfl⟩), waits⟩
  · rintro ⟨room, nak, notice, waits⟩
    refine ⟨room, ?_, waits⟩
    rintro q (rfl | ⟨c, rfl⟩)
    · exact nak
    · exact notice c

theorem State.listsBounded_iff (s : State) : s.ListsBounded ↔ ∀ p, (s.port p).Bounded :=
  forall_congr' fun p => (s.port p).bounded_iff.symm

theorem OutFrame.Plain.of {f : OutFrame} (hn : f ≠ .nak) (hc : ∀ c, f.isNoticeFor c = false) :
    f.Plain := by
  rintro q (rfl | ⟨c, rfl⟩)
  · simpa using hn
  · exact hc c

/-- A BEGIN or TRIAL is plain. -/
theorem Ctx.plain_directive (c : Ctx) (id : Byte) : (c.directive id).Plain := by
  unfold Ctx.directive
  split_ifs <;> exact .of nofun fun _ => rfl

/-- Placed frames wait behind the others, listed or held back (R72, log 10). -/
theorem Port.pending_place (e : OutEntry) (x : Port) : (x.place e).pending = x.pending ++ [e] := by
  unfold Port.place Port.pending
  split_ifs with _ hh
  · simp [hh]
  · simp
  · simp

namespace Port.Bounded
variable {x y : Port}

/-- The bounds speak of the lists alone. -/
theorem sameLists (h : x.Bounded) (ht : y.tx = x.tx) (hp : y.pend = x.pend)
    (hh : y.heldBack = x.heldBack) : y.Bounded := by
  obtain ⟨room, sole, waits⟩ := h
  refine ⟨?_, ?_, ?_⟩
  · simpa only [Port.outLen, ht, hp] using room
  · simpa only [Port.waitingFrames, Port.pending, hp, hh] using sole
  · simpa only [Port.outLen, ht, hp, hh] using waits

/-- Frames leave the list. -/
theorem fewer (h : x.Bounded) (hp : y.pending.Sublist x.pending) (hl : y.outLen ≤ x.outLen)
    (hw : ∀ f ∈ y.heldBack, f.waits ≤ y.outLen) : y.Bounded :=
  ⟨hl.trans h.room, fun q hq => hp.countP_le.trans (h.sole q hq), hw⟩

/-- A frame is placed; one of a sole kind only where none of its kind waits (R72). -/
theorem place (h : x.Bounded) (e : OutEntry)
    (hs : ∀ q, OutFrame.Sole q → q e.frame = true → x.waitingFrames q = 0) : (x.place e).Bounded := by
  refine ⟨?_, fun q hq => ?_, ?_⟩
  · unfold Port.place
    split_ifs with hroom
    · simpa [Port.outLen, ← Nat.add_assoc] using hroom
    · exact h.room
    · exact h.room
  · have counted : (x.place e).waitingFrames q = x.waitingFrames q + if q e.frame then 1 else 0 := by
      simp [Port.waitingFrames, Port.pending_place, List.countP_append]
    rw [counted]
    split_ifs with hqe
    · rw [hs q hq hqe]
    · exact h.sole q hq
  · unfold Port.place
    split_ifs with _ hh
    · simp [hh]
    · intro f hf
      rcases List.mem_append.mp hf with hf | hf
      · exact h.waits f hf
      · rw [List.mem_singleton.mp hf]
        exact Nat.zero_le _
    · intro f hf
      rcases List.mem_append.mp hf with hf | hf
      · exact h.waits f hf
      · rw [List.mem_singleton.mp hf]
        exact x.firstPlain_le

theorem placePlain (h : x.Bounded) {e : OutEntry} (he : e.frame.Plain) : (x.place e).Bounded :=
  h.place e fun q hq hqe => by simp [he q hq] at hqe

theorem removePending (h : x.Bounded) (drop : OutFrame → Bool) : (x.removePending drop).Bounded := by
  refine h.fewer ?_ ?_ fun f hf => ?_
  · simp only [Port.pending, Port.removePending, List.map_map]
    exact List.filter_sublist.append (List.filter_sublist.map _)
  · exact Nat.add_le_add_left (List.length_filter_le _ _) _
  · obtain ⟨g, _, rfl⟩ := List.mem_map.mp hf
    exact x.placeAfter_le drop g.waits

/-- A NOTICE takes the place of the one waiting for its class (R73). -/
theorem placeNotice (h : x.Bounded) (c : ClassId) (kind : NoticeKind) (gen : Nat) :
    (x.placeNotice c kind gen).Bounded := by
  refine (h.removePending _).place _ fun q hq hqe => ?_
  obtain rfl : q = OutFrame.isNoticeFor c := by
    rcases hq with rfl | ⟨c', rfl⟩
    · simp [plainEntry] at hqe
    · rw [show c = c' by simpa [plainEntry, OutFrame.isNoticeFor] using hqe]
  simp only [Port.waitingFrames, Port.pending, Port.removePending, List.countP_eq_zero]
  grind

/-- A NAK is placed where none waits (R74). -/
theorem placeNak (h : x.Bounded) : x.placeNak.Bounded := by
  unfold Port.placeNak
  split_ifs with hn
  · exact h
  · refine h.place _ fun q hq hqe => ?_
    obtain rfl : q = (· == .nak) := by
      rcases hq with rfl | ⟨c, rfl⟩
      · rfl
      · simp [plainEntry, OutFrame.isNoticeFor] at hqe
    simpa [Port.waitingFrames, Port.nakPending, List.countP_eq_zero] using hn

theorem clearPending (h : x.Bounded) : x.clearPending.Bounded :=
  h.fewer (List.nil_sublist _) (Nat.add_le_add_left (Nat.zero_le _) _) nofun

theorem withdraw (h : x.Bounded) : x.withdraw.Bounded := by
  obtain ⟨room, sole, waits⟩ := h.removePending OutFrame.isDirective
  have len : x.withdraw.outLen = (x.removePending OutFrame.isDirective).outLen := by
    cases htx : x.tx <;> simp [Port.outLen, Port.withdraw, Port.removePending, htx]
  exact ⟨len ▸ room, sole, fun f hf => len ▸ waits f hf⟩

/-- The head of the list begins transmission and stays on the list (log 9). -/
theorem startTx (h : x.Bounded) : x.startTx.Bounded := by
  unfold Port.startTx
  split
  · rename_i e rest htx _ hpend
    have len : Port.outLen { x with tx := some e, pend := rest } = x.outLen := by
      simp [Port.outLen, htx, hpend, Nat.add_comm]
    refine h.fewer ?_ len.le fun f hf => (h.waits f hf).trans len.ge
    simp only [Port.pending, hpend]
    exact (List.sublist_cons_self e rest).append_right _
  · exact h

/-- The oldest held-back frame is placed (R72). -/
theorem placeHeld (h : x.Bounded) : x.placeHeld.Bounded := by
  unfold Port.placeHeld
  split
  · exact h
  · rename_i f rest hheld
    split_ifs with hroom
    · have len : Port.outLen { x with pend := x.pend ++ [f.entry], heldBack := rest } = x.outLen + 1 := by
        simp [Port.outLen, Nat.add_assoc]
      refine ⟨len.le.trans hroom.1, fun q hq => ?_, fun g hg => ?_⟩
      · simpa [Port.waitingFrames, Port.pending, hheld] using h.sole q hq
      · exact (h.waits g (by simp [hheld, show g ∈ rest from hg])).trans (len.ge.trans' (Nat.le_succ _))
    · exact h

/-- The frame on the line leaves the list, and the place each held-back frame waits for moves up (R72). -/
theorem left (h : x.Bounded) : Port.Bounded { x with
    tx := none, sent := 0, heldBack := x.heldBack.map fun f => { f with waits := f.waits - 1 } } := by
  refine h.fewer ?_ ?_ fun f hf => ?_
  · simp only [Port.pending, List.map_map]
    exact .refl _
  · simp [Port.outLen]
  · obtain ⟨g, hg, rfl⟩ := List.mem_map.mp hf
    have bound := h.waits g hg
    have one : x.tx.toList.length ≤ 1 := by cases x.tx <;> simp
    simp only [Port.outLen, Option.toList_none, List.length_nil] at bound ⊢
    omega

theorem frameSent (h : x.Bounded) : x.frameSent.Bounded := by
  have held : x.startTx.heldBack = x.heldBack := by
    unfold Port.startTx
    split <;> rfl
  unfold Port.frameSent
  split_ifs
  · exact Port.Bounded.startTx (h.sameLists rfl rfl rfl)
  · exact Port.Bounded.startTx (h.startTx.left.sameLists rfl rfl (by rw [held]))

/-- Lists with no frame at all. -/
theorem empty (ht : y.tx = none) (hp : y.pend = []) (hh : y.heldBack = []) : y.Bounded := by
  refine ⟨?_, ?_, ?_⟩ <;> simp [Port.outLen, Port.waitingFrames, Port.pending, ht, hp, hh]

end Port.Bounded

end Sys2Proof.Machine
end

section
/-! PROOF. Lists, parameters and the buffer within their bounds (O58): what keeps them, along the shared
operations. -/

namespace Sys2Proof.Machine

/-! ### Keeping the bounds -/

/-- The registers and tables that R40, R112 to R114, R158 and R167 give a range. -/
def State.parameters (s : State) : Nat × Nat × Nat × Nat × Nat × Nat × Table 4 Budget ×
    Table 8 (Table 4 Profile) × List Nat :=
  (s.trw, s.windowLimit, s.spaceAny, s.spaceGroup, s.trialTimeout, s.freshTime, s.budgets, s.profiles,
    s.startList)

theorem State.parametersInRange_congr {s t : State} (h : t.parameters = s.parameters) :
    t.ParametersInRange ↔ s.ParametersInRange := by
  simp only [State.parameters, Prod.mk.injEq] at h
  obtain ⟨htrw, hwindow, hany, hgroup, htrial, hfresh, hbudgets, hprofiles, hstarts⟩ := h
  simp only [State.ParametersInRange, State.budget, State.profile, htrw, hwindow, hany, hgroup, htrial,
    hfresh, hbudgets, hprofiles, hstarts]

/-- A mailbox whose buffer, and the copy taken of it, are in canonical form. -/
def Mailbox.Canonical (m : Mailbox) : Prop :=
  m.buffer.wf = true ∧ ∀ c ∈ m.copy, ∀ b ∈ c.buffer, Memory.wf b = true

/-- What leads from `s` to `t` keeps the bounds, each by itself. -/
structure State.KeepsBounds (s t : State) : Prop where
  lists : s.ListsBounded → t.ListsBounded
  params : s.ParametersInRange → t.ParametersInRange
  buffer : s.BufferCanonical → t.BufferCanonical

theorem State.KeepsBounds.refl (s : State) : s.KeepsBounds s := ⟨id, id, id⟩

namespace State.KeepsBounds
variable {s t u : State} (h : s.KeepsBounds t)
include h

/-- A further operation on fields of which the bounds do not speak. -/
theorem frame (hports : u.ports = t.ports) (hparams : u.parameters = t.parameters)
    (hmb : u.mb = t.mb) : s.KeepsBounds u where
  lists hl := by
    have ht := (State.listsBounded_iff t).mp (h.lists hl)
    rw [State.listsBounded_iff]
    simpa only [State.port, hports] using ht
  params hp := (State.parametersInRange_congr hparams).mpr (h.params hp)
  buffer hb := by
    have ht := h.buffer hb
    rwa [State.BufferCanonical, hmb]

/-- The parameters changed within their ranges. -/
theorem withParams (hports : u.ports = t.ports) (hmb : u.mb = t.mb)
    (hparams : t.ParametersInRange → u.ParametersInRange) : s.KeepsBounds u where
  lists := (h.frame (u := { t with ports := u.ports }) hports rfl rfl).lists
  params hp := hparams (h.params hp)
  buffer := (h.frame (u := { t with mb := u.mb }) rfl rfl hmb).buffer

theorem withMailbox {m : Mailbox} (hm : t.mb.Canonical → m.Canonical) :
    s.KeepsBounds { t with mb := m } where
  lists := h.lists
  params := h.params
  buffer hb := hm (h.buffer hb)

theorem withPorts {ports : Table 8 Port} (hp : ∀ p, (t.port p).Bounded → (ports.get p).Bounded) :
    s.KeepsBounds { t with ports := ports } where
  lists hl := by
    have ht := (State.listsBounded_iff t).mp (h.lists hl)
    rw [State.listsBounded_iff]
    exact fun p => hp p (ht p)
  params := h.params
  buffer := h.buffer

theorem modPort (p : PortId) {f : Port → Port} (hf : ∀ x : Port, x.Bounded → (f x).Bounded) :
    s.KeepsBounds (t.modPort p f) :=
  h.withPorts fun q hq => by
    rw [Table.get_set]
    split_ifs with hpq
    · subst hpq
      exact hf _ hq
    · exact hq

/-- A port changed but for its lists. -/
theorem settings (p : PortId) {f : Port → Port} (hf : ∀ x : Port,
      (f x).tx = x.tx ∧ (f x).pend = x.pend ∧ (f x).heldBack = x.heldBack := by
    exact fun _ => ⟨rfl, rfl, rfl⟩) : s.KeepsBounds (t.modPort p f) :=
  h.modPort p fun x hx => hx.sameLists (hf x).1 (hf x).2.1 (hf x).2.2

omit h in
theorem ite {c : Prop} [Decidable c] {a b : State} (ha : s.KeepsBounds a) (hb : s.KeepsBounds b) :
    s.KeepsBounds (if c then a else b) := by
  split_ifs
  · exact ha
  · exact hb

/-! ### Fields of their own -/

theorem decide : s.KeepsBounds t.decide := h.frame rfl rfl rfl
theorem rescanAfter (n : Nat) : s.KeepsBounds (t.rescanAfter n) := h.frame rfl rfl rfl
theorem raise (f : EventFlag) : s.KeepsBounds (t.raise f) := h.frame rfl rfl rfl
theorem reach (m : Nat) : s.KeepsBounds (t.reach m) := h.frame rfl rfl rfl
theorem granted (r : Requester) : s.KeepsBounds (t.granted r) := h.frame rfl rfl rfl
theorem requeue (j : Job) : s.KeepsBounds (t.requeue j) := h.frame rfl rfl rfl
theorem modEngine (e : EngineId) (f : Engine → Engine) : s.KeepsBounds (t.modEngine e f) :=
  h.frame rfl rfl rfl
theorem setCtx (e : EngineId) (c : Option Ctx) : s.KeepsBounds (t.setCtx e c) := h.frame rfl rfl rfl
theorem setSlot (i : SlotId) (x : Slot) : s.KeepsBounds (t.setSlot i x) := h.frame rfl rfl rfl
theorem releaseSlot (i : SlotId) : s.KeepsBounds (t.releaseSlot i) := h.frame rfl rfl rfl
theorem enteredOnline : s.KeepsBounds t.enteredOnline := h.frame rfl rfl rfl

theorem enqueue (k : Key) (o : JobOrigin) (u : Urgency) : s.KeepsBounds (t.enqueue k o u).1 := by
  rw [State.enqueue_eq]
  exact h.frame rfl rfl rfl

theorem advanceStamp : s.KeepsBounds t.advanceStamp := by
  obtain ⟨f, n, he⟩ := t.advanceStamp_eq
  rw [he]
  exact h.frame rfl rfl rfl

theorem touch (i : SlotId) : s.KeepsBounds (t.touch i) := h.advanceStamp.setSlot i _

theorem allocate {n : Nat} {i : SlotId} (ha : t.allocate n = some (i, u)) : s.KeepsBounds u := by
  obtain ⟨he, _⟩ := State.allocate_spec ha
  rw [he]
  exact h.frame rfl rfl rfl

theorem clearHoldOff (k : Key) : s.KeepsBounds (t.clearHoldOff k) := by
  unfold State.clearHoldOff
  split
  · exact h.setSlot _ _
  · exact h

theorem setHoldOff (k : Key) : s.KeepsBounds (t.setHoldOff k) := by
  unfold State.setHoldOff
  split
  · exact h.setSlot _ _
  · exact h

theorem releaseReservation (k : Key) : s.KeepsBounds (t.releaseReservation k) := by
  unfold State.releaseReservation
  split
  · exact h
  · split
    · exact h.releaseSlot _
    · exact h
    · exact h

/-! ### The output lists -/

theorem emit (p : PortId) {f : OutFrame} (hf : f.Plain) : s.KeepsBounds (t.emit p f) :=
  h.modPort p fun _ hx => hx.placePlain hf

theorem answer (p : PortId) (tag : Byte) (st : Status) (gen : Option Nat) (flags : Option JobFlags) :
    s.KeepsBounds (t.answer p tag st gen flags) := h.emit p (.of nofun fun _ => rfl)

theorem answerAtOnce (p : PortId) (tag : Byte) (st : Status) :
    s.KeepsBounds (t.answerAtOnce p tag st) := .ite (h.answer p tag st none none) h

theorem placeEnd (k : Key) (o : JobOutcome) (gen : Option Nat) : s.KeepsBounds (t.placeEnd k o gen) :=
  (h.emit k.port (f := .endTraining k.cls o gen) (.of nofun fun _ => rfl)).settings k.port

theorem notify (r : Record) (kind : NoticeKind) (gen : Nat) : s.KeepsBounds (t.notify r kind gen) :=
  .ite (h.modPort _ fun _ hx => hx.placeNotice _ kind gen) h

theorem staleRequest (r : Record) : s.KeepsBounds (t.staleRequest r) := by
  rw [State.staleRequest_eq]
  exact h.frame rfl rfl rfl

theorem turnedStale (r : Record) : s.KeepsBounds (t.turnedStale r) := (h.notify r _ _).staleRequest r

theorem setCondition (i : SlotId) (c : Condition) : s.KeepsBounds (t.setCondition i c) := by
  unfold State.setCondition
  split
  · exact .ite ((h.setSlot i _).turnedStale _) (h.setSlot i _)
  · exact h
  · exact h

theorem evaluate (f : Record → Condition) : s.KeepsBounds (t.evaluate f) := by
  unfold State.evaluate
  generalize List.finRange 24 = l
  induction l generalizing t with
  | nil => exact h
  | cons i l ih =>
    refine ih ?_
    beta_reduce
    split
    · exact h.setCondition i _
    · exact h
    · exact h

theorem placeDirective (e : EngineId) (c : Ctx) (resend : Bool) :
    s.KeepsBounds (t.placeDirective e c resend) :=
  (h.modEngine e _).modPort _ fun _ hx => hx.placePlain (c.plain_directive _)

theorem proceed (e : EngineId) (c : Ctx) : s.KeepsBounds (t.proceed e c) :=
  .ite (h.placeDirective e c false) (h.setCtx e _)

/-! ### How a job leaves its engine -/

theorem endRun (e : EngineId) (k : Key) : s.KeepsBounds (t.endRun e k) :=
  ((h.modPort k.port fun _ hx => hx.withdraw).releaseReservation k).setCtx e none

theorem endJob (e : EngineId) (k : Key) (o : JobOutcome) (gen : Option Nat) :
    s.KeepsBounds (t.endJob e k o gen) := ((h.endRun e k).placeEnd k o gen).rescanAfter 1

theorem abandon (e : EngineId) (c : Ctx) (sends : Bool) (attempts : Nat) :
    s.KeepsBounds (t.abandon e c sends attempts) := by
  have ended := h.endRun e c.job.key
  cases sends with
  | false => exact ended.requeue _
  | true => exact (ended.placeEnd c.job.key .deferred none).requeue _

theorem abandonPort (p : PortId) (sends : Bool) : s.KeepsBounds (t.abandonPort p sends) := by
  unfold State.abandonPort
  split
  · exact h.abandon _ _ sends _
  · exact h

theorem cancelJobs (k : Key) : s.KeepsBounds (t.cancelJobs k) := by
  have dequeued : s.KeepsBounds (State.rescanAfter { t with queued := withoutKey k t.queued }
      (t.queued.length - (withoutKey k t.queued).length)) := h.frame rfl rfl rfl
  unfold State.cancelJobs
  simp only
  split
  · exact dequeued.endJob _ _ _ _
  · exact dequeued

theorem removePortJobs (p : PortId) : s.KeepsBounds (t.removePortJobs p) := by
  have dequeued : s.KeepsBounds (t.dequeuePort p) := h.frame rfl rfl rfl
  cases hr : (t.dequeuePort p).runningPort p with
  | some x =>
    rw [State.removePortJobs_of_some hr]
    exact (dequeued.endRun _ _).rescanAfter 1
  | none =>
    rw [State.removePortJobs_of_none hr]
    exact dequeued

theorem retireHost (i : SlotId) (r : Record) : s.KeepsBounds (t.retireHost i r) :=
  (h.releaseSlot i).notify r .retired r.gen

/-! ### A port's ways out of ONLINE -/

theorem leave (p : PortId) {y : Port} (hy : (t.port p).Bounded → y.Bounded) (clear : Bool) :
    s.KeepsBounds (t.leave p y clear) := by
  refine (h.withPorts (ports := t.ports.set p y) fun q hq => ?_).frame rfl rfl rfl
  rw [Table.get_set]
  split_ifs with hpq
  · exact hy (hpq ▸ hq)
  · exact hq

theorem loseTemp (p : PortId) (clear : Bool) : s.KeepsBounds (t.loseTemp p clear) := by
  rw [State.loseTemp_eq_leave]
  exact h.leave p (y := { t.port p with temp := .unknown }) (fun hx => hx.sameLists rfl rfl rfl) clear

theorem enterSyncing (p : PortId) : s.KeepsBounds (t.enterSyncing p) := by
  rw [State.enterSyncing_eq]
  exact (h.leave p (y := { t.port p with state := .syncing, bad := 0, temp := .unknown })
    (fun hx => hx.sameLists rfl rfl rfl) false).decide

theorem enterHeld (p : PortId) : s.KeepsBounds (t.enterHeld p) := by
  have held (hx : (t.port p).Bounded) : (t.port p).held.Bounded := by
    have cleared : Port.Bounded { (t.port p).clearPending with
        state := .held, rx := .hunting, bad := 0, reqs := [] } := hx.clearPending.sameLists rfl rfl rfl
    exact (cleared.placePlain (e := plainEntry .hold) (.of nofun fun _ => rfl)).sameLists rfl rfl rfl
  rw [State.enterHeld_eq]
  exact (((h.leave p held false).raise _).abandonPort p false).decide

theorem restart (p : PortId) (next : PortState) {reply : State → State} {f : OutFrame} (hf : f.Plain)
    (hr : ∀ u : State, u.profiles = t.profiles → reply u = u.emit p f) :
    s.KeepsBounds (t.restart p next reply) := by
  have restarted (hx : (t.port p).Bounded) : ((t.port p).restarted f).Bounded := by
    have cleared : Port.Bounded { (t.port p).clearPending with reqs := [], bad := 0 } :=
      hx.clearPending.sameLists rfl rfl rfl
    exact (cleared.placePlain (e := plainEntry f) hf).sameLists rfl rfl rfl
  rw [State.restart_eq t p next reply f hr]
  exact (((h.leave p restarted true).abandonPort p false).settings p).decide

theorem disable (p : PortId) : s.KeepsBounds (t.disable p) := by
  have left := h.leave p (y := (t.port p).disabled) (fun _ => .empty rfl rfl rfl) true
  have framed : s.KeepsBounds { t.leave p (t.port p).disabled true with
      autoReqs := t.autoReqs.filter fun k => k.port != p } := left.frame rfl rfl rfl
  rw [State.disable_eq]
  exact (framed.removePortJobs p).decide

theorem servePark (p : PortId) (tag : Byte) : s.KeepsBounds (t.servePark p tag) := by
  have parked (hx : (t.port p).Bounded) : ((t.port p).parks tag).Bounded :=
    (hx.placePlain (e := plainEntry (.answer tag .done none none))
      (.of nofun fun _ => rfl)).sameLists rfl rfl rfl
  rw [State.servePark_eq]
  exact ((h.leave p parked false).abandonPort p false).decide

end State.KeepsBounds

end Sys2Proof.Machine
end

section
/-! PROOF. The bounds along each command, and O58. -/

namespace Sys2Proof.Machine

open State (KeepsBounds)
open Port.Bounded (placeNak)

/-- A profile read from a buffer is valid (R162). -/
theorem readProfile_valid {m : Memory} {p : Profile} (h : readProfile m = some p) : p.valid = true := by
  unfold readProfile at h
  split at h
  · simp only at h
    split_ifs at h with hv
    exact Option.some_injective _ h ▸ hv
  · cases h

/-- The copy taken at a command's start is canonical where the buffer is (R172). -/
theorem Mailbox.Canonical.copyFor {m : Mailbox} (h : m.Canonical) (code : Byte) :
    ∀ b ∈ (m.copyFor code).buffer, Memory.wf b = true := by
  intro b hb
  simp only [Mailbox.copyFor] at hb
  split_ifs at hb
  · exact Option.some_injective _ hb ▸ h.1
  · cases hb

/-! ### Frames -/

namespace State.KeepsBounds
variable {s t : State} (h : s.KeepsBounds t)
include h

theorem takeFrame {α : Type} (p : PortId) (tag : Byte) (parsed : Option α) {act : State → α → State}
    (ha : ∀ u a, s.KeepsBounds u → s.KeepsBounds (act u a)) :
    s.KeepsBounds (t.takeFrame p tag parsed act) := by
  have framed : s.KeepsBounds (t.framed p) := h.settings p
  rcases t.takeFrame_cases p tag parsed act with ⟨_, e⟩ | ⟨_, e⟩ | ⟨_, _, ⟨a, _, e⟩ | e⟩
  · rwa [e]
  · exact e ▸ h.settings p
  · exact e ▸ ha _ a framed
  · exact e ▸ framed.answerAtOnce p tag _

theorem takeRequest (p : PortId) (tag : Byte) (body : ReqBody) :
    s.KeepsBounds (t.takeRequest p tag body) := by
  unfold State.takeRequest State.queueRequest
  split_ifs
  · exact h.settings p
  · exact h.answerAtOnce p tag _
  · exact h.answerAtOnce p tag _

theorem welcome (p : PortId) (tag : Byte) : s.KeepsBounds (t.welcome p tag) :=
  h.emit p (.of nofun fun _ => rfl)

theorem takeHello (p : PortId) (tag version : Byte) : s.KeepsBounds (t.takeHello p tag version) := by
  unfold State.takeHello State.helloSyncing State.helloRestart
  split_ifs
  · exact ((h.welcome p tag).settings p).enteredOnline
  · exact h.answerAtOnce p tag _
  · exact (h.restart p .online (f := .welcome tag _) (.of nofun fun _ => rfl) fun u hu => by
      rw [State.welcome, hu]).enteredOnline
  · exact h.restart p .syncing (f := .answer tag .badVersion none none) (.of nofun fun _ => rfl)
      fun u _ => rfl

theorem handTest (p : PortId) (v : Int) : s.KeepsBounds (t.handTest p v) := by
  unfold State.handTest
  split
  · exact h.modEngine _ _
  · exact h

theorem takeTemp (p : PortId) (v : Int) : s.KeepsBounds (t.takeTemp p v) := by
  unfold State.takeTemp
  split_ifs
  · exact (((h.settings p).evaluate _).handTest p v).decide
  · exact h

theorem takeWake (p : PortId) (tag : Byte) : s.KeepsBounds (t.takeWake p tag) := by
  unfold State.takeWake
  split
  · exact ((h.answer p tag _ _ _).settings p).enteredOnline
  · exact h.answerAtOnce p tag _
  · exact h.answerAtOnce p tag _
  · exact h
  · exact h

theorem takeResync (p : PortId) (tag : Byte) (payload : List Byte) :
    s.KeepsBounds (t.takeResync p tag payload) := by
  unfold State.takeResync
  split_ifs
  · exact (h.settings p).enterSyncing p
  · exact h.takeFrame p tag _ fun _ _ hu => hu

theorem takeReady (p : PortId) (id : Byte) : s.KeepsBounds (t.takeReady p id) := by
  unfold State.takeReady
  split
  · split_ifs
    · exact h.proceed _ _
    · exact h
  · exact h

theorem takeResult (p : PortId) (id : Byte) (counts : List Nat) :
    s.KeepsBounds (t.takeResult p id counts) := by
  unfold State.takeResult
  split
  · split_ifs
    · exact h.proceed _ _
    · exact h
  · exact h

theorem applyPolicy (p : PortId) : s.KeepsBounds (t.applyPolicy p) := by
  unfold State.applyPolicy
  simp only
  split_ifs
  · exact h.modPort p fun _ hx => placeNak (hx.sameLists rfl rfl rfl)
  · exact h.enterHeld p

theorem takeBad (p : PortId) : s.KeepsBounds (t.takeBad p) := by
  unfold State.takeBad
  split
  · exact h
  · exact h.settings p
  · exact h.applyPolicy p
  · exact h.applyPolicy p
  · exact h.applyPolicy p

/-! ### The mailbox commands -/

theorem endCommand (result : Status) (retired : Bool) : s.KeepsBounds (t.endCommand result retired) :=
  (h.withMailbox (m := { t.mb with result := result, retired := retired, copy := none })
    fun hm => ⟨hm.1, by simp⟩).raise _

theorem endWithBuffer (bytes : List Byte) : s.KeepsBounds (t.endWithBuffer bytes) :=
  (h.withMailbox (m := { t.mb with buffer := Memory.ofBytes bytes }) fun hm =>
    ⟨Memory.wf_ofBytes bytes, hm.2⟩).endCommand .done false

theorem carryEnablePort (c : CmdCopy) : s.KeepsBounds (t.carryEnablePort c) := by
  unfold State.carryEnablePort
  split
  · exact h.endCommand _ _
  · split_ifs
    · exact ((h.settings _).enterSyncing _).endCommand _ _
    · exact h.endCommand _ _

theorem carryClearHold (c : CmdCopy) : s.KeepsBounds (t.carryClearHold c) := by
  unfold State.carryClearHold
  split
  · exact h.endCommand _ _
  · split_ifs
    · exact (h.enterSyncing _).endCommand _ _
    · exact h.endCommand _ _

theorem carryDisablePort (c : CmdCopy) : s.KeepsBounds (t.carryDisablePort c) := by
  unfold State.carryDisablePort
  split
  · exact h.endCommand _ _
  · split_ifs
    · exact h.endCommand _ _
    · exact (h.disable _).endCommand _ _

theorem carryCancelTraining (c : CmdCopy) : s.KeepsBounds (t.carryCancelTraining c) := by
  unfold State.carryCancelTraining
  split
  · exact h.endCommand _ _
  · split_ifs
    · exact (h.cancelJobs _).endCommand _ _
    · exact h.endCommand _ _

theorem carryGetProfile (c : CmdCopy) : s.KeepsBounds (t.carryGetProfile c) := by
  unfold State.carryGetProfile
  split
  · exact h.endCommand _ _
  · exact h.endWithBuffer _

theorem settle : s.KeepsBounds t.settle := by
  rcases t.settle_cases with e | ⟨c, _, ⟨_, e⟩ | ⟨_, e⟩ | ⟨_, e⟩ | ⟨_, e⟩⟩
  · rwa [e]
  · exact e ▸ h.carryEnablePort c
  · exact e ▸ h.carryClearHold c
  · exact e ▸ h.carryGetProfile c
  · exact e ▸ h.endWithBuffer _

theorem startCommand (code : Byte) : s.KeepsBounds (t.startCommand code) := by
  have started : s.KeepsBounds { t with mb := { t.mb with
      cmd := code, result := .none, retired := false, copy := some (t.mb.copyFor code) } } :=
    h.withMailbox fun hm => ⟨hm.1, fun c hc => Option.some_injective _ hc ▸ hm.copyFor code⟩
  unfold State.startCommand
  simp only
  split_ifs
  · exact h.raise _
  · split
    · exact started.endCommand _ _
    · exact started
  · exact started.endCommand _ _

theorem onGrantKey (code : Byte) {f : State → CmdCopy → Key → State}
    (hf : ∀ u c k, s.KeepsBounds u → s.KeepsBounds (f u c k)) : s.KeepsBounds (t.onGrantKey code f) := by
  have granted := h.granted mailboxRequester
  rcases t.onGrantKey_cases code f with e | ⟨c, _, ⟨k, _, e⟩ | e⟩
  · rwa [e]
  · exact e ▸ hf _ c k granted
  · exact e ▸ granted.endCommand _ _

theorem onCommand (code : Byte) {f : State → CmdCopy → State} (hf : ∀ c, s.KeepsBounds (f t c)) :
    s.KeepsBounds (t.onCommand code f) := by
  rcases t.onCommand_cases code f with e | ⟨c, _, _, e⟩
  · rwa [e]
  · exact e ▸ hf c

theorem carryReadRecord (c : CmdCopy) (k : Key) : s.KeepsBounds (t.carryReadRecord c k) := by
  unfold State.carryReadRecord
  split
  · exact h.endWithBuffer _
  · exact h.endCommand _ _

theorem carryPin (k : Key) (on : Bool) : s.KeepsBounds (t.carryPin k on) := by
  unfold State.carryPin
  split
  · exact (h.setSlot _ _).endCommand _ _
  · exact h.endCommand _ _

theorem carryRetireRecord (c : CmdCopy) (k : Key) : s.KeepsBounds (t.carryRetireRecord c k) := by
  unfold State.carryRetireRecord
  split
  · exact ((h.retireHost _ _).cancelJobs k).endCommand _ _
  · exact (h.cancelJobs k).endCommand _ _

theorem carryQueueTraining (c : CmdCopy) (k : Key) : s.KeepsBounds (t.carryQueueTraining c k) := by
  unfold State.carryQueueTraining
  split
  · exact h.endCommand _ _
  · exact ((h.clearHoldOff k).enqueue _ _ _).endCommand _ _

theorem setProfile (k : Key) {p : Profile} (hv : p.valid = true) : s.KeepsBounds (t.setProfile k p) := by
  refine h.withParams rfl rfl ?_
  rintro ⟨trw, window, any, group, trial, fresh, budgets, profiles, starts⟩
  refine ⟨trw, window, any, group, trial, fresh, budgets, fun k' => ?_, starts⟩
  rw [State.profile_setProfile]
  split_ifs
  · exact hv
  · exact profiles k'

theorem carrySetProfile (c : CmdCopy) (k : Key) : s.KeepsBounds (t.carrySetProfile c k) := by
  unfold State.carrySetProfile
  split_ifs
  · exact h.endCommand _ _
  · split
    · exact h.endCommand _ _
    · rename_i p hp
      have set := h.setProfile k (readProfile_valid hp)
      simp only
      split_ifs
      · split
        · exact ((set.retireHost _ _).cancelJobs k).endCommand _ _
        · exact set.endCommand _ _
      · exact set.endCommand _ _

end State.KeepsBounds

/-! ### PRELOAD_RECORD (R23, R176) -/

namespace State.KeepsBounds
variable {s t : State} (h : s.KeepsBounds t)
include h

theorem preloadOver (m : Memory) (lanes : List LaneEntry) (i : SlotId) (r : Record) :
    s.KeepsBounds (t.preloadOver m lanes i r) :=
  .ite (((h.setSlot i _).notify _ _ _).staleRequest _) ((h.setSlot i _).notify _ _ _)

theorem preloadNew (m : Memory) (lanes : List LaneEntry) (i : SlotId) (k : Key) :
    s.KeepsBounds (t.preloadNew m lanes i k) := by
  have created (x : Slot) (n : Nat) : s.KeepsBounds (t.advanceStamp.takeSlot i x n) :=
    h.advanceStamp.frame rfl rfl rfl
  exact .ite ((created _ _).turnedStale _) (created _ _)

theorem carryPreload (c : CmdCopy) (k : Key) : s.KeepsBounds (t.carryPreload c k) := by
  unfold State.carryPreload
  simp only
  split_ifs
  · exact h.endCommand _ _
  · exact h.endCommand _ _
  · split
    · exact h.endCommand _ _
    · exact h.endCommand _ _
  · split
    · split
      · exact (h.preloadOver _ _ _ _).endCommand _ _
      · split
        · rename_i ha
          exact ((h.allocate ha).preloadNew _ _ _ k).endCommand _ _
        · exact (h.raise _).endCommand _ _
    · exact h.endCommand _ _

/-! ### Services (chapter 4) -/

theorem serve {α : Type} (p : PortId) (kind : ReqBody → Option α) {f : State → Byte → α → State}
    (hf : ∀ u tag a, s.KeepsBounds u → s.KeepsBounds (f u tag a)) : s.KeepsBounds (t.serve p kind f) := by
  have taken : s.KeepsBounds (t.takeHead p) := (h.settings p).granted _
  rcases t.serve_cases p kind f with e | ⟨tag, body, a, _, _, e⟩
  · rwa [e]
  · exact e ▸ hf _ tag a taken

theorem ifEnabled (k : Key) (tag : Byte) {f : State → State} (hf : s.KeepsBounds (f t)) :
    s.KeepsBounds (t.ifEnabled k tag f) := by
  unfold State.ifEnabled
  split_ifs
  · exact hf
  · exact h.answer _ _ _ _ _

theorem serveLookup (k : Key) (tag : Byte) : s.KeepsBounds (t.serveLookup k tag) := by
  unfold State.serveLookup
  split
  · exact (h.touch _).emit _ (.of nofun fun _ => rfl)
  · exact h.answer _ _ _ _ _

theorem serveRetire (k : Key) (tag : Byte) : s.KeepsBounds (t.serveRetire k tag) := by
  unfold State.serveRetire
  split
  · split_ifs
    · exact h.answer _ _ _ _ _
    · exact ((h.releaseSlot _).answer _ _ _ _ _).cancelJobs k
  · exact (h.answer _ _ _ _ _).cancelJobs k

theorem serveTrain (k : Key) (tag : Byte) (u : Urgency) : s.KeepsBounds (t.serveTrain k tag u) :=
  ((h.clearHoldOff k).enqueue k .port u).answer _ _ _ _ _

theorem serveApplied (k : Key) (tag : Byte) (g : Nat) : s.KeepsBounds (t.serveApplied k tag g) := by
  unfold State.serveApplied
  split
  · exact .ite (((h.touch _).setSlot _ _).answer _ _ _ _ _) ((h.touch _).answer _ _ _ _ _)
  · exact h.answer _ _ _ _ _

theorem serveTrim (k : Key) (tag : Byte) (g : Nat) (deltas : List Int) :
    s.KeepsBounds (t.serveTrim k tag g deltas) := by
  unfold State.serveTrim
  split
  · simp only
    split
    · exact ((h.touch _).setSlot _ _).answer _ _ _ _ _
    · exact (h.touch _).answer _ _ _ _ _
    · exact ((h.touch _).answer _ _ _ _ _).setCondition _ .stale
    · exact (h.touch _).answer _ _ _ _ _
  · exact h.answer _ _ _ _ _

/-! ### Register writes -/

theorem writeTrw (v : Byte) : s.KeepsBounds (t.writeTrw v) := by
  unfold State.writeTrw
  split_ifs with hv
  · refine h.withParams rfl rfl ?_
    rintro ⟨_, window, any, group, trial, fresh, budgets, profiles, starts⟩
    exact ⟨⟨hv, Nat.le_of_lt_succ v.isLt⟩, window, any, group, trial, fresh, budgets, profiles,
      (List.length_filter_le _ _).trans starts⟩
  · exact h

theorem writeWindowLimit (v : Byte) : s.KeepsBounds (t.writeWindowLimit v) := by
  unfold State.writeWindowLimit
  split_ifs with hv
  · refine h.withParams rfl rfl ?_
    rintro ⟨trw, _, rest⟩
    exact ⟨trw, hv, rest⟩
  · exact h

theorem writeSpaceAny (v : Byte) : s.KeepsBounds (t.writeSpaceAny v) := by
  unfold State.writeSpaceAny
  split_ifs with hv
  · refine h.withParams rfl rfl ?_
    rintro ⟨trw, window, _, rest⟩
    exact ⟨trw, window, hv, rest⟩
  · exact h

theorem writeSpaceGroup (v : Byte) : s.KeepsBounds (t.writeSpaceGroup v) := by
  unfold State.writeSpaceGroup
  split_ifs with hv
  · refine h.withParams rfl rfl ?_
    rintro ⟨trw, window, any, _, rest⟩
    exact ⟨trw, window, any, hv, rest⟩
  · exact h

theorem writeTrialTimeout (v : Byte) : s.KeepsBounds (t.writeTrialTimeout v) := by
  unfold State.writeTrialTimeout
  split_ifs with hv
  · refine h.withParams rfl rfl ?_
    rintro ⟨trw, window, any, group, _, rest⟩
    exact ⟨trw, window, any, group, hv, rest⟩
  · exact h

theorem writeFreshTime (v : Byte) : s.KeepsBounds (t.writeFreshTime v) := by
  unfold State.writeFreshTime
  split_ifs with hv
  · refine h.withParams rfl rfl ?_
    rintro ⟨trw, window, any, group, trial, _, rest⟩
    exact ⟨trw, window, any, group, trial, ⟨hv, Nat.le_of_lt_succ v.isLt⟩, rest⟩
  · exact h

theorem setBudget (c : ClassId) (b : Budget) (hb : (t.budget c).InRange → b.InRange) :
    s.KeepsBounds (t.setBudget c b) := by
  refine h.withParams rfl rfl ?_
  rintro ⟨trw, window, any, group, trial, fresh, budgets, rest⟩
  refine ⟨trw, window, any, group, trial, fresh, fun d => ?_, rest⟩
  by_cases hcd : c = d
  · subst hcd
    simpa [State.budget, State.setBudget] using hb (budgets c)
  · simpa [State.budget, State.setBudget, Table.get_set, hcd] using budgets d

theorem handBudgetTests (c : ClassId) : s.KeepsBounds (t.handBudgetTests c) := h.frame rfl rfl rfl

theorem writeDriftBudget (c : ClassId) (v : Byte) : s.KeepsBounds (t.writeDriftBudget c v) := by
  unfold State.writeDriftBudget
  split_ifs with hv
  · have set := h.setBudget c { t.budget c with drift := v.toNat } fun ⟨_, _, rest⟩ =>
      ⟨hv.1, hv.2, rest⟩
    exact (set.evaluate _).handBudgetTests c
  · exact h

theorem writeAgeLimit (c : ClassId) (v : Byte) : s.KeepsBounds (t.writeAgeLimit c v) := by
  unfold State.writeAgeLimit
  simp only
  split_ifs with hv
  · have set := h.setBudget c { t.budget c with ageLimit := (t.budget c).ageValue v, ageHeld := none }
      fun ⟨low, high, _, rest⟩ => ⟨low, high, hv, rest⟩
    exact set.evaluate _
  · exact h.setBudget c _ id

theorem writeTrimLimit (c : ClassId) (v : Byte) : s.KeepsBounds (t.writeTrimLimit c v) := by
  unfold State.writeTrimLimit
  split_ifs with hv
  · have set := h.setBudget c { t.budget c with trimLimit := v.toNat } fun ⟨low, high, age, _⟩ =>
      ⟨low, high, age, hv⟩
    exact set.evaluate _
  · exact h

theorem writeBudgetByte (off : Nat) (v : Byte) : s.KeepsBounds (t.writeBudgetByte off v) :=
  .ite (h.writeDriftBudget _ v) <| .ite (h.setBudget _ _ id) <| .ite (h.writeAgeLimit _ v) <|
  h.writeTrimLimit _ v

theorem writePatternByte (off : Nat) (v : Byte) : s.KeepsBounds (t.writePatternByte off v) :=
  .ite (h.frame rfl rfl rfl) (h.frame rfl rfl rfl)

theorem writeAutotrain (p : PortId) (v : Byte) : s.KeepsBounds (t.writeAutotrain p v) :=
  .ite ((h.settings p).rescanAfter 1) (h.settings p)

theorem writePortByte (off : Nat) (v : Byte) : s.KeepsBounds (t.writePortByte off v) :=
  .ite (h.settings _) <| .ite (h.writeAutotrain _ v) h

omit h in
theorem hardReset : s.KeepsBounds t.hardReset := by
  obtain ⟨_, _, _, _, _, lists, _, _, params, buffer⟩ := invariantsAtReset
  exact ⟨fun _ => lists, fun _ => params, fun _ => buffer⟩

/-- The ports lose their frames; the parameters and the buffer stay (R187). -/
theorem softReset (alert : Bool) : s.KeepsBounds (t.softReset alert) where
  lists _ := (State.listsBounded_iff _).mpr fun p => by
    rw [State.port, State.softReset, Table.get_map]
    exact .empty rfl rfl rfl
  params hp := by
    obtain ⟨trw, window, any, group, trial, fresh, budgets, profiles, _⟩ := h.params hp
    refine ⟨trw, window, any, group, trial, fresh, fun c => ?_, profiles, Nat.zero_le _⟩
    simpa [State.budget, State.softReset, Budget.InRange] using budgets c
  buffer hb := ⟨(h.buffer hb).1, nofun⟩

theorem writeCtrl (v : Byte) : s.KeepsBounds (t.writeCtrl v) := by
  unfold State.writeCtrl
  split_ifs
  · exact h.softReset _
  · exact h.frame rfl rfl rfl

theorem setMailbox (m : Mailbox) (hm : t.mb.Canonical → m.Canonical) : s.KeepsBounds (t.setMailbox m) :=
  h.withMailbox hm

theorem setArgument {m : Mailbox} (hb : m.buffer = t.mb.buffer) (hc : m.copy = t.mb.copy) :
    s.KeepsBounds (t.setMailbox m) :=
  h.setMailbox m fun hm => by rwa [Mailbox.Canonical, hb, hc]

theorem writeBuffer (off : Nat) (v : Byte) :
    s.KeepsBounds (t.setMailbox { t.mb with buffer := t.mb.buffer.write off v }) :=
  h.setMailbox _ fun hm => ⟨Memory.wf_write off v hm.1, hm.2⟩

theorem writeByte (a : Nat) (v : Byte) : s.KeepsBounds (t.writeByte a v) :=
  .ite (h.writeCtrl v) <| .ite (h.frame rfl rfl rfl) <| .ite (h.frame rfl rfl rfl) <|
  .ite (h.startCommand v) <| .ite (h.setArgument rfl rfl) <| .ite (h.setArgument rfl rfl) <|
  .ite (h.setArgument rfl rfl) <| .ite (h.writeTrw v) <| .ite (h.writeWindowLimit v) <|
  .ite (h.writeSpaceAny v) <| .ite (h.writeSpaceGroup v) <| .ite (h.writeTrialTimeout v) <|
  .ite (h.writeFreshTime v) <| .ite (h.writeBudgetByte _ v) <| .ite (h.writePatternByte _ v) <|
  .ite (h.writePortByte _ v) <|
  .ite (h.writeBuffer _ v) h

/-! ### Timers, training and transmission -/

theorem expireFreshness (p : PortId) : s.KeepsBounds (t.expireFreshness p) := by
  unfold State.expireFreshness
  split
  · exact h
  · exact (((h.reach _).loseTemp p false).abandonPort p true).decide

theorem expireAge (i : SlotId) : s.KeepsBounds (t.expireAge i) := by
  unfold State.expireAge
  split
  · exact .ite ((h.reach _).setSlot i _) (((h.reach _).setSlot i _).setCondition i .stale)
  · exact h
  · exact h

theorem expireTrial (e : EngineId) : s.KeepsBounds (t.expireTrial e) := by
  unfold State.expireTrial
  split
  · exact h
  · split
    · exact h
    · simp only
      split_ifs
      · exact (h.reach _).setCtx e _
      · exact (h.reach _).placeDirective e _ true

theorem departStart : s.KeepsBounds t.departStart := by
  unfold State.departStart
  split
  · exact h
  · rename_i hstarts
    refine h.withParams rfl rfl ?_
    rintro ⟨trw, window, any, group, trial, fresh, budgets, profiles, starts⟩
    refine ⟨trw, window, any, group, trial, fresh, budgets, profiles, ?_⟩
    exact (Nat.le_succ _).trans (by simpa [hstarts] using starts)

theorem expireSpaceAny : s.KeepsBounds t.expireSpaceAny := by
  unfold State.expireSpaceAny
  split
  · exact h
  · exact h.frame rfl rfl rfl

theorem expireSpaceGroup (g : GroupId) : s.KeepsBounds (t.expireSpaceGroup g) := by
  unfold State.expireSpaceGroup
  split
  · exact h
  · exact h.frame rfl rfl rfl

theorem enqueueAuto (k : Key) : s.KeepsBounds (t.enqueueAuto k) := by
  rw [State.enqueueAuto_eq]
  exact h.frame rfl rfl rfl

theorem takeAutoRequest : s.KeepsBounds t.takeAutoRequest := by
  have framed (l : List Key) : s.KeepsBounds { t with autoReqs := l } := h.frame rfl rfl rfl
  unfold State.takeAutoRequest
  split
  · exact h
  · simp only
    split_ifs
    · exact framed _
    · exact (framed _).enqueueAuto _

theorem takeTest (e : EngineId) : s.KeepsBounds (t.takeTest e) := by
  unfold State.takeTest State.onMoved
  split
  · exact h
  · simp only
    split
    · exact h.modEngine e _
    · split_ifs
      · exact (h.modEngine e _).abandon e _ true 1
      · exact h.modEngine e _
      · exact (h.modEngine e _).setCtx e _
      · exact h.modEngine e _

/-- A start that the window admits leaves at most 8 starts (R112, R113). -/
theorem startJob (e : EngineId) (j : Job) (v : Int) (ha : t.admitting = true) :
    s.KeepsBounds (t.startJob e j v) := by
  refine h.withParams rfl rfl ?_
  rintro ⟨trw, window, any, group, trial, fresh, budgets, profiles, _⟩
  refine ⟨trw, window, any, group, trial, fresh, budgets, profiles, ?_⟩
  simp only [State.admitting, Bool.and_eq_true, decide_eq_true_eq] at ha
  simpa [State.startJob, State.recordStart, State.setCtx, State.decide] using
    (Nat.succ_le_of_lt ha.1).trans window.2

theorem decideStart : s.KeepsBounds t.decideStart := by
  have begun : s.KeepsBounds { t with decision := false } := h.frame rfl rfl rfl
  unfold State.decideStart
  split_ifs
  · simp only
    split
    · split_ifs with ha
      · exact begun.startJob _ _ _ ha
      · exact begun
    · exact begun
  · exact h

theorem rescan : s.KeepsBounds t.rescan := by
  unfold State.rescan
  split
  · exact h
  · rw [State.rescanWalk_eq]
    exact h.frame rfl rfl rfl

theorem reserveSlot (i : SlotId) (k : Key) : s.KeepsBounds (t.reserveSlot i k) := h.frame rfl rfl rfl

theorem reserve (e : EngineId) (c : Ctx) : s.KeepsBounds (t.reserve e c) := by
  unfold State.reserve State.announce State.endStoreFull
  simp only
  split
  · exact h.placeDirective e _ false
  · exact h
  · split
    · rename_i i _ ha
      have reserved := (h.allocate ha).reserveSlot i c.job.key
      exact reserved.placeDirective e _ false
    · exact ((h.raise _).endJob e _ _ _).raise _

theorem commit (e : EngineId) (c : Ctx) : s.KeepsBounds (t.commit e c) := by
  unfold State.commit
  simp only
  split
  · exact h
  · split
    · exact h
    · exact (h.advanceStamp.setSlot _ _).endJob e _ _ _
    · exact (h.setSlot _ _).endJob e _ _ _

theorem endFailed (e : EngineId) (c : Ctx) (o : JobOutcome) : s.KeepsBounds (t.endFailed e c o) :=
  ((h.setHoldOff c.job.key).endJob e c.job.key o none).raise _

theorem onRequest (e : EngineId) {f : Ctx → StoreRequest → State}
    (hf : ∀ c q, s.KeepsBounds (f c q)) : s.KeepsBounds (t.onRequest e f) := by
  rcases t.onRequest_cases e f with he | ⟨c, q, _, _, he⟩
  · rwa [he]
  · exact he ▸ hf c q

theorem reportSent (e : EngineId) (id : Byte) : s.KeepsBounds (t.reportSent e id) := by
  unfold State.reportSent
  split
  · exact h
  · simp only
    split_ifs
    · exact h
    · exact h.setCtx e _
    · exact h.proceed e _

theorem frameSent (p : PortId) : s.KeepsBounds (t.frameSent p) := by
  unfold State.frameSent
  simp only
  split
  · exact h
  · split
    · exact (h.modPort p fun _ hx => hx.frameSent).reportSent _ _
    · exact h.modPort p fun _ hx => hx.frameSent

end State.KeepsBounds

/-- Every command keeps the bounds. -/
theorem exec_keepsBounds (i : Instr) (s t : State) (hex : exec i s = .next t) : s.KeepsBounds t := by
  have h := KeepsBounds.refl s
  cases i <;> obtain rfl := Host.Outcome.next.inj hex
  case hardwareReset => exact KeepsBounds.hardReset
  case softReset => exact h.settle.softReset _
  case alertEnableWrite => exact h.settle.frame rfl rfl rfl
  case eventsWrite => exact h.settle.frame rfl rfl rfl
  case eventEnWrite => exact h.settle.frame rfl rfl rfl
  case registerWrite => exact h.settle.writeByte _ _
  case trwWrite => exact h.settle.writeTrw _
  case windowLimitWrite => exact h.settle.writeWindowLimit _
  case spaceAnyWrite => exact h.settle.writeSpaceAny _
  case spaceGroupWrite => exact h.settle.writeSpaceGroup _
  case trialTimeoutWrite => exact h.settle.writeTrialTimeout _
  case freshTimeWrite => exact h.settle.writeFreshTime _
  case driftBudgetWrite => exact h.settle.writeDriftBudget _ _
  case ageLimitWrite => exact h.settle.writeAgeLimit _ _
  case trimLimitWrite => exact h.settle.writeTrimLimit _ _
  case errorPolicyWrite => exact h.settle.settings _
  case autotrainWrite => exact h.settle.writeAutotrain _ _
  case patternWordWrite => exact h.settle.frame rfl rfl rfl
  case commandStart => exact h.settle.startCommand _
  case readRecord => exact h.onGrantKey _ fun _ c k hu => hu.carryReadRecord c k
  case preloadRecord => exact h.onGrantKey _ fun _ c k hu => hu.carryPreload c k
  case retireRecord => exact h.onGrantKey _ fun _ c k hu => hu.carryRetireRecord c k
  case pin => exact h.onGrantKey _ fun _ _ k hu => hu.carryPin k true
  case unpin => exact h.onGrantKey _ fun _ _ k hu => hu.carryPin k false
  case queueTraining => exact h.onGrantKey _ fun _ c k hu => hu.carryQueueTraining c k
  case cancelTraining => exact h.onCommand _ h.carryCancelTraining
  case enablePort => exact h.onCommand _ h.carryEnablePort
  case disablePort => exact h.onCommand _ h.carryDisablePort
  case clearHold => exact h.onCommand _ h.carryClearHold
  case setProfile => exact h.onGrantKey _ fun _ c k hu => hu.carrySetProfile c k
  case getProfile => exact h.onCommand _ h.carryGetProfile
  case listRecords =>
    rcases s.onGrant_cases 0x0D State.carryListRecords with e | ⟨c, _, e⟩
    · rwa [e]
    · exact e ▸ (h.granted _).endWithBuffer _
  case listQueue => exact h.onCommand _ fun _ => h.endWithBuffer _
  case hello => exact h.takeFrame _ _ _ fun _ _ hu => hu.takeHello _ _ _
  case temp => exact h.takeFrame _ _ _ fun _ _ hu => hu.takeTemp _ _
  case autoRequest => exact h.takeAutoRequest
  case lookup => exact h.takeFrame _ _ _ fun _ _ hu => hu.takeRequest _ _ _
  case applied => exact h.takeFrame _ _ _ fun _ _ hu => hu.takeRequest _ _ _
  case trim => exact h.takeFrame _ _ _ fun _ _ hu => hu.takeRequest _ _ _
  case train => exact h.takeFrame _ _ _ fun _ _ hu => hu.takeRequest _ _ _
  case retire => exact h.takeFrame _ _ _ fun _ _ hu => hu.takeRequest _ _ _
  case park => exact h.takeFrame _ _ _ fun _ _ hu => hu.takeRequest _ _ _
  case wake => exact h.takeFrame _ _ _ fun _ _ hu => hu.takeWake _ _
  case resync => exact h.takeResync _ _ _
  case ready => exact h.takeFrame _ _ _ fun _ _ hu => hu.takeReady _ _
  case result =>
    refine h.takeFrame _ _ _ fun u a hu => ?_
    cases a with
    | some x => exact hu.takeResult _ _ _
    | none => exact hu
  case badFrame => split_ifs <;> [exact h.takeBad _; exact h]
  case lookupService => exact h.serve _ _ fun _ _ _ hu => hu.ifEnabled _ _ (hu.serveLookup _ _)
  case appliedService => exact h.serve _ _ fun _ _ _ hu => hu.ifEnabled _ _ (hu.serveApplied _ _ _)
  case trimService => exact h.serve _ _ fun _ _ _ hu => hu.ifEnabled _ _ (hu.serveTrim _ _ _ _)
  case retireService => exact h.serve _ _ fun _ _ _ hu => hu.ifEnabled _ _ (hu.serveRetire _ _)
  case trainService => exact h.serve _ _ fun _ _ _ hu => hu.ifEnabled _ _ (hu.serveTrain _ _ _)
  case parkService => exact h.serve _ _ fun _ _ _ hu => hu.servePark _ _
  case frameSent => exact h.frameSent _
  case deferredFramePlacement => exact h.modPort _ fun _ hx => hx.placeHeld
  case freshnessExpiry => exact h.expireFreshness _
  case ageTimerExpiry => exact h.expireAge _
  case trialTimerExpiry => exact h.expireTrial _
  case temperatureMovementTest => exact h.takeTest _
  case startListDeparture => exact h.departStart
  case spaceAnyExpiry => exact h.expireSpaceAny
  case spaceGroupExpiry => exact h.expireSpaceGroup _
  case startDecision => exact h.decideStart
  case rescan => exact h.rescan
  case reservation => exact h.onRequest _ fun c q => by split_ifs <;> [exact h.reserve _ c; exact h]
  case commit => exact h.onRequest _ fun c q => by split_ifs <;> [exact h.commit _ c; exact h]
  case noEye => exact h.onRequest _ fun c q => by split_ifs <;> [exact h.endFailed _ c _; exact h]
  case failureOperation =>
    refine h.onRequest _ fun c q => ?_
    cases q with
    | failure o => exact h.endFailed _ c o
    | reserve => exact h
    | commit => exact h
    | noEye => exact h
  case unknownKindFrame => split_ifs <;> [exact h; exact h.takeFrame _ _ _ fun _ _ hu => hu]
  case startByteReceived => split_ifs <;> [exact h.settings _; exact h]

/-- Settles O58: a REFCLK period only puts the heads of lists on their lines, and each command keeps the
bounds. -/
theorem stepsKeepBounds : Obligations.StepsKeepBounds := by
  intro s s' hstep
  have kept : s.KeepsBounds s' := by
    rcases step_cases hstep with rfl | ⟨c, rest, _, hex⟩
    · have moved := (KeepsBounds.refl s).withPorts (ports := s.ports.map Port.startTx) fun p hp => by
        rw [Table.get_map]
        exact hp.startTx
      exact moved.frame rfl rfl rfl
    · have popped : s.KeepsBounds { s with pending := rest } := (KeepsBounds.refl s).frame rfl rfl rfl
      have kept := exec_keepsBounds c _ s' hex
      exact ⟨kept.lists ∘ popped.lists, kept.params ∘ popped.params, kept.buffer ∘ popped.buffer⟩
  exact ⟨kept.lists, kept.params, kept.buffer⟩

end Sys2Proof.Machine
end

section
/-! PROOF. What vouches for CURRENT records (O59): R34 of each record and the watch on running jobs, with
the jobs of some keys spared from it, and what each change of one table keeps. -/

namespace Sys2Proof.Machine

/-! ### R34 of one record -/

/-- A CURRENT record's port is FRESH, and the record meets its budgets there (R34). -/
def State.Backs (s : State) (r : Record) : Prop :=
  r.cond = .current → ∃ v timer, (s.port r.key.port).temp = .fresh v timer ∧
    r.fit (s.budget r.key.cls) v = true

section
variable {s t : State} {r q : Record}

theorem State.backs_of_not_current (h : r.cond ≠ .current) : s.Backs r := fun hc => absurd hc h

/-- A record changed in nothing that R34 speaks of, or only away from CURRENT. -/
theorem State.Backs.keeps (h : s.Backs r) (hk : q.key = r.key) (hc : q.cond = .current → r.cond = .current)
    (hf : ∀ b v, q.fit b v = r.fit b v) : s.Backs q := fun hq => by
  rw [hk]
  obtain ⟨v, timer, ht, hfit⟩ := h (hc hq)
  exact ⟨v, timer, ht, (hf _ _).trans hfit⟩

theorem State.Backs.congr (h : s.Backs r) (ht : (t.port r.key.port).temp = (s.port r.key.port).temp)
    (hb : ∀ v, r.fit (t.budget r.key.cls) v = r.fit (s.budget r.key.cls) v) : t.Backs r := fun hc => by
  simp only [ht, hb]
  exact h hc

theorem State.currentMeansFit_iff :
    s.CurrentMeansFit ↔ ∀ i r, s.slot i = .occupied r → s.Backs r := by
  have occupied : ∀ x r, x.record? = some r ↔ x = Slot.occupied r := fun _ _ => Slot.mem_record?
  simp only [State.CurrentMeansFit, Option.mem_def, occupied, State.Backs]
  refine forall_congr' fun i => forall_congr' fun r => imp_congr_right fun _ => imp_congr_right fun _ => ?_
  cases (s.port r.key.port).temp <;> simp

end

/-! ### The watch on one job -/

/-- The watch on context `c` at engine `x`: its port is FRESH, and a job that has moved waits for its
failure or has the test of it still to come (R38, R42, R147, R149). -/
def State.Watches (s : State) (x : Engine) (c : Ctx) : Prop :=
  ∃ v timer, (s.port c.job.key.port).temp = .fresh v timer ∧
    (c.failing = true ∨ moved (s.budget c.job.key.cls).drift v c.startTemp = false ∨
      x.lastTest c.job.key.port = some v)

/-- Context `x` goes on with the job of `c`: at the same start temperature, waiting quietly if it waits,
and for its failure if `c` does. -/
structure Ctx.GoesOn (c x : Ctx) : Prop where
  job : x.job = c.job
  start : x.startTemp = c.startTemp
  quiet : x.WaitsQuietly
  failing : c.failing = true → x.failing = true

section
variable {s t : State} {x y : Engine} {c d : Ctx}

theorem State.movementWatched_iff :
    s.MovementWatched ↔ ∀ e c, (s.engine e).ctx = some c → s.Watches (s.engine e) c := by
  refine forall_congr' fun e => forall_congr' fun c => imp_congr_right fun _ => ?_
  unfold State.Watches
  cases (s.port c.job.key.port).temp <;> simp

theorem State.Watches.fresh (h : s.Watches x c) : (s.port c.job.key.port).temp ≠ .unknown := by
  obtain ⟨v, timer, ht, _⟩ := h
  simp [ht]

theorem State.Watches.congr (h : s.Watches x c)
    (ht : (t.port c.job.key.port).temp = (s.port c.job.key.port).temp)
    (hb : (t.budget c.job.key.cls).drift = (s.budget c.job.key.cls).drift) : t.Watches x c := by
  rw [State.Watches, ht, hb]
  exact h

theorem State.Watches.goesOn (h : s.Watches x c) (hd : c.GoesOn d) (ht : y.tests = x.tests) :
    s.Watches y d := by
  obtain ⟨v, timer, hv, hw⟩ := h
  rw [State.Watches, hd.job, hd.start, Engine.lastTest, ht]
  exact ⟨v, timer, hv, hw.imp_left hd.failing⟩

/-- A job that does not wait for the store goes on to wait for nothing. -/
theorem Ctx.GoesOn.of_idle (hc : c.request = none) (hd : d.request = none) (hj : d.job = c.job)
    (hs : d.startTemp = c.startTemp) : c.GoesOn d :=
  ⟨hj, hs, fun h => by simp [hd] at h, fun h => by simp [Ctx.failing, hc] at h⟩

theorem Ctx.GoesOn.refl (h : c.WaitsQuietly) : c.GoesOn c := ⟨rfl, rfl, h, id⟩

theorem Ctx.GoesOn.trans {d' : Ctx} (h : c.GoesOn d) (h' : d.GoesOn d') : c.GoesOn d' :=
  ⟨h'.job.trans h.job, h'.start.trans h.start, h'.quiet, h'.failing ∘ h.failing⟩

/-- A job asks for a failure operation, awaiting nothing else (R144, R149). -/
theorem Ctx.goesOn_askFailure (c : Ctx) (o : JobOutcome) : c.GoesOn (c.askFailure o) :=
  ⟨rfl, rfl, fun _ => ⟨rfl, rfl, by simp [Ctx.askFailure], by simp [Ctx.sweeping, Ctx.askFailure]⟩,
    fun _ => rfl⟩

end

/-! ### The property by parts -/

/-- The parts of what vouches for CURRENT records, where the jobs of the keys `spared` need no watch. -/
structure State.Vouches (spared : Set Key) (s : State) : Prop where
  queue : SoundQueue s.queued s.running
  ports : ∀ p, (s.port p).Sound
  quiet : ∀ e c, (s.engine e).ctx = some c → c.WaitsQuietly
  backed : ∀ i r, s.slot i = .occupied r → s.Backs r
  watched : ∀ e c, (s.engine e).ctx = some c → c.job.key ∉ spared → s.Watches (s.engine e) c

theorem State.vouched_iff {s : State} : s.Vouched ↔ s.Vouches ∅ := by
  rw [State.Vouched, State.queueSound_iff, State.currentMeansFit_iff, State.movementWatched_iff]
  constructor
  · rintro ⟨queue, ports, quiet, backed, watched⟩
    exact ⟨queue, ports, fun e c hc => quiet e c hc, backed, fun e c hc _ => watched e c hc⟩
  · rintro ⟨queue, ports, quiet, backed, watched⟩
    exact ⟨queue, ports, fun e c hc => quiet e c hc, backed,
      fun e c hc => watched e c hc (Set.notMem_empty _)⟩

namespace State.Vouches
variable {spared : Set Key} {s t : State}

/-! ### Changes of one table -/

/-- A change of fields of which none of this speaks. -/
theorem frame (h : s.Vouches spared) (hports : t.ports = s.ports) (hslots : t.slots = s.slots)
    (hqueued : t.queued = s.queued) (hengines : t.engines = s.engines)
    (hbudgets : t.budgets = s.budgets) : t.Vouches spared := by
  have hp : t.port = s.port := by simp only [funext_iff, State.port, hports, implies_true]
  have hs : t.slot = s.slot := by simp only [funext_iff, State.slot, hslots, implies_true]
  have he : t.engine = s.engine := by simp only [funext_iff, State.engine, hengines, implies_true]
  have hb : t.budget = s.budget := by simp only [funext_iff, State.budget, hbudgets, implies_true]
  have hr : t.running = s.running := by simp only [State.running, hengines]
  constructor
  · simpa only [hqueued, hr] using h.queue
  · simpa only [hp] using h.ports
  · simpa only [he] using h.quiet
  · simpa only [State.Backs, hp, hs, hb] using h.backed
  · simpa only [State.Watches, hp, he, hb] using h.watched

/-- Ports changed to sound ports of the same temperature. -/
theorem portsTo (h : s.Vouches spared) {u : Table 8 Port} (hs : ∀ p, (u.get p).Sound)
    (ht : ∀ p, (u.get p).temp = (s.port p).temp) : State.Vouches spared { s with ports := u } where
  queue := h.queue
  ports := hs
  quiet := h.quiet
  backed i r hr := (h.backed i r hr).congr (ht _) fun _ => rfl
  watched e c hc hn := (h.watched e c hc hn).congr (ht _) rfl

theorem modPort (h : s.Vouches spared) (p : PortId) {f : Port → Port}
    (hf : (s.port p).Sound → (f (s.port p)).Sound) (ht : (f (s.port p)).temp = (s.port p).temp) :
    (s.modPort p f).Vouches spared := by
  refine h.portsTo (fun q => ?_) fun q => ?_ <;> rw [Table.get_set] <;> split_ifs with hq
  · exact hf (h.ports p)
  · exact h.ports q
  · exact hq ▸ ht
  · rfl

/-- Slots replaced, each record backed. -/
theorem slotsTo (h : s.Vouches spared) {u : Table 24 Slot}
    (hu : ∀ i r, u.get i = .occupied r → s.Backs r) : State.Vouches spared { s with slots := u } where
  queue := h.queue
  ports := h.ports
  quiet := h.quiet
  backed i r hr := (hu i r hr).congr rfl fun _ => rfl
  watched e c hc hn := (h.watched e c hc hn).congr rfl rfl

theorem setSlot (h : s.Vouches spared) (i : SlotId) {x : Slot} (hx : ∀ r, x = .occupied r → s.Backs r) :
    (s.setSlot i x).Vouches spared := by
  refine h.slotsTo fun j r hr => ?_
  rw [Table.get_set] at hr
  split_ifs at hr
  · exact hx r hr
  · exact h.backed j r hr

/-- Records changed in nothing that R34 speaks of, or only away from CURRENT. -/
theorem mapRecords (h : s.Vouches spared) {f : Record → Record} (hk : ∀ r, (f r).key = r.key)
    (hc : ∀ r, (f r).cond = .current → r.cond = .current) (hf : ∀ r b v, (f r).fit b v = r.fit b v) :
    State.Vouches spared { s with slots := s.slots.map (Slot.mapRecord f) } := by
  refine h.slotsTo fun i q hq => ?_
  rw [Table.get_map] at hq
  obtain ⟨r, hr, rfl⟩ := Slot.mapRecord_eq_occupied.mp hq
  exact (h.backed i r hr).keeps (hk r) (hc r) (hf r)

/-- Jobs leave the queue. -/
theorem queueTo (h : s.Vouches spared) {q : List Job} (hq : q.Sublist s.queued) :
    State.Vouches spared { s with queued := q } where
  queue := h.queue.sublist hq
  ports := h.ports
  quiet := h.quiet
  backed i r hr := (h.backed i r hr).congr rfl fun _ => rfl
  watched e c hc hn := (h.watched e c hc hn).congr rfl rfl

/-- Engines changed but for their jobs, each with the watch it needs. -/
theorem enginesTo (h : s.Vouches spared) {spared' : Set Key} {u : Table 2 Engine}
    (hj : ∀ e, (u.get e).ctx.map Ctx.job = (s.engine e).ctx.map Ctx.job)
    (hu : ∀ e c, (u.get e).ctx = some c →
      c.WaitsQuietly ∧ (c.job.key ∉ spared' → s.Watches (u.get e) c)) :
    State.Vouches spared' { s with engines := u } where
  queue := by
    have running : State.running { s with engines := u } = s.running := State.running_congr hj
    rw [running]
    exact h.queue
  ports := h.ports
  quiet e c hc := (hu e c hc).1
  backed i r hr := (h.backed i r hr).congr rfl fun _ => rfl
  watched e c hc hn := ((hu e c hc).2 hn).congr rfl rfl

/-- The jobs spared are watched after all. -/
theorem rewatch (h : s.Vouches spared)
    (hw : ∀ e c, (s.engine e).ctx = some c → c.job.key ∈ spared → s.Watches (s.engine e) c) :
    s.Vouches ∅ where
  queue := h.queue
  ports := h.ports
  quiet := h.quiet
  backed := h.backed
  watched e c hc _ := by
    by_cases hn : c.job.key ∈ spared
    · exact hw e c hc hn
    · exact h.watched e c hc hn

/-- Jobs spared from the watch. -/
theorem spare (h : s.Vouches ∅) (spared : Set Key) : s.Vouches spared where
  queue := h.queue
  ports := h.ports
  quiet := h.quiet
  backed := h.backed
  watched e c hc _ := h.watched e c hc (Set.notMem_empty _)

/-- One engine changed but for its job, with the watch it needs. -/
theorem modEngine (h : s.Vouches spared) (e : EngineId) {f : Engine → Engine}
    (hj : (f (s.engine e)).ctx.map Ctx.job = (s.engine e).ctx.map Ctx.job)
    (hf : ∀ c, (f (s.engine e)).ctx = some c →
      c.WaitsQuietly ∧ (c.job.key ∉ spared → s.Watches (f (s.engine e)) c)) :
    (s.modEngine e f).Vouches spared := by
  refine h.enginesTo (fun d => ?_) fun d c hc => ?_
  · rw [Table.get_set]
    split_ifs with hd
    · exact hd ▸ hj
    · rfl
  · rw [Table.get_set] at hc ⊢
    split_ifs at hc ⊢ with hd
    · exact hf c hc
    · exact ⟨h.quiet d c hc, h.watched d c hc⟩

/-- An engine goes on with its job. -/
theorem goesOn (h : s.Vouches spared) {e : EngineId} {c x : Ctx} {f : Engine → Engine}
    (hc : (s.engine e).ctx = some c) (hx : c.GoesOn x) (hf : (f (s.engine e)).ctx = some x)
    (ht : (f (s.engine e)).tests = (s.engine e).tests) : (s.modEngine e f).Vouches spared := by
  refine h.modEngine e (by simp [hc, hf, hx.job]) fun y hy => ?_
  rw [hf] at hy
  cases hy
  exact ⟨hx.quiet, fun hn => (h.watched e c hc (hx.job ▸ hn)).goesOn hx ht⟩

theorem setCtx (h : s.Vouches spared) {e : EngineId} {c x : Ctx} (hc : (s.engine e).ctx = some c)
    (hx : c.GoesOn x) : (s.setCtx e (some x)).Vouches spared := h.goesOn hc hx rfl rfl

/-- An engine loses its job; all the jobs of its port are watched, there being no other (R111). -/
theorem goIdle (h : s.Vouches spared) {e : EngineId} {c : Ctx} (hc : (s.engine e).ctx = some c)
    (hs : ∀ k ∈ spared, k.port = c.job.key.port) :
    (s.setCtx e none).Vouches ∅ ∧ SoundQueue s.queued (c.job :: (s.setCtx e none).running) := by
  have engine (d : EngineId) : ((s.setCtx e none).engine d) =
      if e = d then { s.engine e with ctx := none } else s.engine d := Table.get_set _ _ _ _
  have perm : s.running.Perm (c.job :: (s.setCtx e none).running) :=
    State.running_perm_of_idle hc (by rw [engine, if_pos rfl]) fun d hd => by rw [engine, if_neg hd.symm]
  have queue := h.queue.perm_running perm
  have old {d : EngineId} {x : Ctx} (hx : ((s.setCtx e none).engine d).ctx = some x) :
      (s.engine d).ctx = some x ∧ (s.setCtx e none).engine d = s.engine d := by
    rw [engine] at hx ⊢
    split_ifs at hx ⊢
    exact ⟨hx, rfl⟩
  refine ⟨⟨queue.ended, h.ports, fun d x hx => h.quiet d x (old hx).1, fun i r hr =>
    (h.backed i r hr).congr rfl (fun _ => rfl), fun d x hx _ => ?_⟩, queue⟩
  obtain ⟨hd, same⟩ := old hx
  rw [same]
  refine (h.watched d x hd fun hk => ?_).congr rfl rfl
  exact (List.nodup_cons.mp queue.portsApart).1
    (List.mem_map.mpr ⟨x.job, State.mem_running.mpr ⟨d, x, hx, rfl⟩, hs _ hk⟩)

/-! ### What the parts say together -/

theorem watch (h : s.Vouches ∅) {e : EngineId} {c : Ctx} (hc : (s.engine e).ctx = some c) :
    s.Watches (s.engine e) c := h.watched e c hc (Set.notMem_empty _)

/-- A running job's port is ONLINE (R111, R150). -/
theorem online_of_running (h : s.Vouches ∅) {e : EngineId} {c : Ctx} (hc : (s.engine e).ctx = some c) :
    (s.port c.job.key.port).state = .online := (h.ports _).online_of_fresh (h.watch hc).fresh

theorem not_offline_of_running (h : s.Vouches ∅) {e : EngineId} {c : Ctx}
    (hc : (s.engine e).ctx = some c) : (s.port c.job.key.port).state ≠ .offline := by
  simp [h.online_of_running hc]

/-- A port out of ONLINE runs no job. -/
theorem idle_of_not_online (h : s.Vouches ∅) {p : PortId} (hs : (s.port p).state ≠ .online)
    {e : EngineId} {c : Ctx} (hc : (s.engine e).ctx = some c) : c.job.key.port ≠ p :=
  fun hp => hs (hp ▸ h.online_of_running hc)

/-- Two engines do not run jobs of one port (R111). -/
theorem engines_apart (h : s.Vouches spared) {e d : EngineId} {c x : Ctx}
    (hc : (s.engine e).ctx = some c) (hx : (s.engine d).ctx = some x)
    (hp : x.job.key.port = c.job.key.port) : d = e := by
  by_contra hne
  have perm : s.running.Perm (c.job :: (s.setCtx e none).running) :=
    State.running_perm_of_idle hc (by simp [State.setCtx]) fun d hd => by
      simp [State.setCtx, State.engine_modEngine, hd.symm]
  refine (List.nodup_cons.mp (h.queue.perm_running perm).portsApart).1 (List.mem_map.mpr ⟨x.job, ?_, hp⟩)
  refine State.mem_running.mpr ⟨d, x, ?_, rfl⟩
  simp [State.setCtx, State.engine_modEngine, Ne.symm hne, hx]

/-- Where no job of a spared port runs, none is spared. -/
theorem arrived {p : PortId} (h : s.Vouches {k | k.port = p})
    (hrun : ∀ e c, (s.engine e).ctx = some c → c.job.key.port ≠ p) : s.Vouches ∅ :=
  h.rewatch fun e c hc hk => absurd hk (hrun e c hc)

end State.Vouches

end Sys2Proof.Machine
end

section
/-! PROOF. What vouches for CURRENT records, along the shared operations: `h.op` says that it stands after
`op` where it stands before. -/

namespace Sys2Proof.Machine

/-! ### What the end of a run leaves (R141) -/

theorem State.releaseReservation_eq (s : State) (k : Key) : s.releaseReservation k = { s with
    slots := (s.releaseReservation k).slots, free := (s.releaseReservation k).free } := by
  unfold State.releaseReservation
  split
  · rfl
  · split <;> rfl

theorem State.endRun_eq (s : State) (e : EngineId) (k : Key) : ∃ slots free, s.endRun e k = { s with
    ports := s.ports.set k.port (s.port k.port).withdraw, slots := slots, free := free
    engines := s.engines.set e { s.engine e with ctx := none } } := by
  rw [State.endRun, State.releaseReservation_eq]
  exact ⟨_, _, rfl⟩

/-- The end of a run withdraws pending frames of the port, and leaves its other fields. -/
theorem State.port_endRun (s : State) (e : EngineId) (k : Key) (p : PortId) :
    (s.endRun e k).port p = if k.port = p then (s.port p).withdraw else s.port p := by
  obtain ⟨slots, free, he⟩ := s.endRun_eq e k
  rw [he]
  change (s.ports.set _ _).get p = _
  rw [Table.get_set]
  split_ifs with hp
  · rw [hp]
  · rfl

theorem State.state_port_endRun (s : State) (e : EngineId) (k : Key) (p : PortId) :
    ((s.endRun e k).port p).state = (s.port p).state := by
  rw [State.port_endRun]
  split_ifs <;> rfl

namespace State.Vouches
variable {spared : Set Key} {s : State}

/-! ### Fields of their own -/

theorem decide (h : s.Vouches spared) : s.decide.Vouches spared := h.frame rfl rfl rfl rfl rfl
theorem raise (h : s.Vouches spared) (f : EventFlag) : (s.raise f).Vouches spared :=
  h.frame rfl rfl rfl rfl rfl
theorem reach (h : s.Vouches spared) (m : Nat) : (s.reach m).Vouches spared := h.frame rfl rfl rfl rfl rfl
theorem rescanAfter (h : s.Vouches spared) (n : Nat) : (s.rescanAfter n).Vouches spared :=
  h.frame rfl rfl rfl rfl rfl
theorem granted (h : s.Vouches spared) (r : Requester) : (s.granted r).Vouches spared :=
  h.frame rfl rfl rfl rfl rfl
theorem enteredOnline (h : s.Vouches spared) : s.enteredOnline.Vouches spared :=
  h.frame rfl rfl rfl rfl rfl
theorem endCommand (h : s.Vouches spared) (st : Status) (retired : Bool) :
    (s.endCommand st retired).Vouches spared := h.frame rfl rfl rfl rfl rfl
theorem endWithBuffer (h : s.Vouches spared) (bytes : List Byte) :
    (s.endWithBuffer bytes).Vouches spared := h.frame rfl rfl rfl rfl rfl
theorem setProfile (h : s.Vouches spared) (k : Key) (p : Profile) : (s.setProfile k p).Vouches spared :=
  h.frame rfl rfl rfl rfl rfl
theorem setMailbox (h : s.Vouches spared) (m : Mailbox) : (s.setMailbox m).Vouches spared :=
  h.frame rfl rfl rfl rfl rfl

/-! ### The output lists -/

theorem emit (h : s.Vouches spared) (p : PortId) (f : OutFrame) (hs : (s.port p).state ≠ .offline) :
    (s.emit p f).Vouches spared := h.modPort p (fun hp => hp.place _ hs) (Port.place_temp _ _)

theorem answer (h : s.Vouches spared) (p : PortId) (tag : Byte) (st : Status) (gen : Option Nat)
    (flags : Option JobFlags) (hs : (s.port p).state ≠ .offline) :
    (s.answer p tag st gen flags).Vouches spared := h.emit p _ hs

theorem answerAtOnce (h : s.Vouches spared) (p : PortId) (tag : Byte) (st : Status)
    (hs : (s.port p).state ≠ .offline) : (s.answerAtOnce p tag st).Vouches spared := by
  rcases s.answerAtOnce_cases p tag st with e | e
  · exact e ▸ h.emit p _ hs
  · rwa [e]

/-- A port changed where it is, at its temperature. -/
theorem stays (h : s.Vouches spared) (p : PortId) {f : Port → Port}
    (hf : (s.port p).Stays (f (s.port p))) (ht : (f (s.port p)).temp = (s.port p).temp) :
    (s.modPort p f).Vouches spared := h.modPort p hf.sound ht

theorem placeEnd (h : s.Vouches spared) (k : Key) (o : JobOutcome) (gen : Option Nat)
    (hs : (s.port k.port).state ≠ .offline) : (s.placeEnd k o gen).Vouches spared :=
  (h.emit k.port (.endTraining k.cls o gen) hs).stays k.port (.settings _ _ _) rfl

theorem notify (h : s.Vouches spared) (r : Record) (kind : NoticeKind) (gen : Nat) :
    (s.notify r kind gen).Vouches spared := by
  unfold State.notify
  split_ifs with hc
  · exact h.stays _ (.placeNotice _ _ _ (by simp [hc.2])) (Port.placeNotice_temp _ _ _ _)
  · exact h

theorem staleRequest (h : s.Vouches spared) (r : Record) : (s.staleRequest r).Vouches spared := by
  rw [State.staleRequest_eq]
  exact h.frame rfl rfl rfl rfl rfl

theorem turnedStale (h : s.Vouches spared) (r : Record) : (s.turnedStale r).Vouches spared :=
  (h.notify r _ _).staleRequest r

/-! ### The store -/

/-- A record changed in nothing that R34 speaks of, or only away from CURRENT. -/
theorem record (h : s.Vouches spared) {i : SlotId} {r q : Record} (hr : s.slot i = .occupied r)
    (hk : q.key = r.key) (hc : q.cond = .current → r.cond = .current)
    (hf : ∀ b v, q.fit b v = r.fit b v) : (s.setSlot i (.occupied q)).Vouches spared := by
  refine h.setSlot i fun q' hq => ?_
  cases hq
  exact (h.backed i r hr).keeps hk hc hf

theorem releaseSlot (h : s.Vouches spared) (i : SlotId) : (s.releaseSlot i).Vouches spared :=
  (h.setSlot i (x := .free) nofun).frame rfl rfl rfl rfl rfl

theorem releaseReservation (h : s.Vouches spared) (k : Key) : (s.releaseReservation k).Vouches spared := by
  unfold State.releaseReservation
  split
  · exact h
  · split
    · exact h.releaseSlot _
    · exact h
    · exact h

/-- A record that takes the condition STALE needs no backing. -/
theorem setStale (h : s.Vouches spared) (i : SlotId) (r : Record) :
    ((s.setSlot i (.occupied r)).setCondition i .stale).Vouches spared := by
  have stale : ((s.setSlot i (.occupied r)).setSlot i (.occupied { r with cond := .stale })).Vouches
      spared := by
    rw [show (s.setSlot i (.occupied r)).setSlot i _ = s.setSlot i (.occupied { r with cond := .stale })
      by simp [State.setSlot]]
    refine h.setSlot i fun q hq => ?_
    cases hq
    exact State.backs_of_not_current nofun
  simp only [State.setCondition, State.slot_setSlot_self]
  split_ifs
  · exact stale.turnedStale _
  · exact stale

theorem setCondition_stale (h : s.Vouches spared) (i : SlotId) :
    (s.setCondition i .stale).Vouches spared := by
  cases hr : s.slot i with
  | occupied r =>
    have same : s.setSlot i (.occupied r) = s := by
      rw [← hr]
      simp [State.setSlot, State.slot]
    rw [← same]
    exact h.setStale i r
  | _ => simpa only [State.setCondition, hr] using h

theorem advanceStamp (h : s.Vouches spared) : s.advanceStamp.Vouches spared := by
  obtain ⟨f, n, he⟩ := s.advanceStamp_eq
  have stamped := h.mapRecords (f := fun r => { r with stamp := f r }) (fun _ => rfl) (fun _ => id)
    fun _ _ _ => rfl
  rw [he]
  exact stamped.frame rfl rfl rfl rfl rfl

theorem touch (h : s.Vouches spared) (i : SlotId) : (s.touch i).Vouches spared := by
  refine h.advanceStamp.setSlot i fun q hq => ?_
  obtain ⟨r, hr, rfl⟩ := Slot.mapRecord_eq_occupied.mp hq
  exact (h.advanceStamp.backed i r hr).keeps rfl id fun _ _ => rfl

theorem allocate (h : s.Vouches spared) {t : State} {n : Nat} {i : SlotId}
    (ha : s.allocate n = some (i, t)) : t.Vouches spared := by
  obtain ⟨he, _, _, _, hslot⟩ := State.allocate_spec ha
  have freed : State.Vouches spared { s with slots := t.slots } := h.slotsTo fun j r hr => by
    rcases hslot j with hj | ⟨hj, _⟩
    · exact h.backed j r (hj.symm.trans hr)
    · exact absurd (hj.symm.trans hr) nofun
  rw [he]
  exact freed.frame rfl rfl rfl rfl rfl

theorem clearHoldOff (h : s.Vouches spared) (k : Key) : (s.clearHoldOff k).Vouches spared := by
  unfold State.clearHoldOff
  split
  · rename_i hr
    exact h.record (State.recordOf_eq_some.mp hr).2 rfl id fun _ _ => rfl
  · exact h

theorem setHoldOff (h : s.Vouches spared) (k : Key) : (s.setHoldOff k).Vouches spared := by
  unfold State.setHoldOff
  split
  · rename_i hr
    exact h.record (State.recordOf_eq_some.mp hr).2 rfl id fun _ _ => rfl
  · exact h

theorem retireHost (h : s.Vouches spared) (i : SlotId) (r : Record) : (s.retireHost i r).Vouches spared :=
  (h.releaseSlot i).notify r .retired r.gen

/-! ### Evaluations -/

/-- A port is left sound by the NOTICEs of an evaluation (R44). -/
theorem sound_staleNotice (p : PortId) {x : Port} (h : x.Sound) (r : Record) :
    (staleNotice p x r).Sound := by
  unfold staleNotice
  split_ifs with hc
  · exact h.placeNotice _ _ _ (by simp [hc.2.2])
  · exact h

/-- An evaluation vouches for the CURRENT records where their new conditions do. -/
theorem evaluate {f : Record → Condition} (h : State.Vouches spared { s with
    slots := s.slots.map (Slot.mapRecord fun r => { r with cond := f r }) }) :
    (s.evaluate f).Vouches spared := by
  obtain ⟨heq, hslot, heffects⟩ := s.evaluate_spec f
  generalize s.evaluate f = t at heq hslot heffects ⊢
  have temps := heffects.temp
  obtain ⟨hports, _⟩ := heffects
  have slots : t.slots = s.slots.map (Slot.mapRecord fun r => { r with cond := f r }) :=
    Table.ext_get fun i => (hslot i).trans (Table.get_map _ _ _).symm
  have sound (p : PortId) : (t.port p).Sound := by
    rw [hports p]
    exact List.foldlRecOn _ _ (h.ports p) fun x hx r _ => sound_staleNotice p hx r
  have noticed := h.portsTo (u := t.ports) sound temps
  rw [heq]
  exact noticed.frame rfl slots rfl rfl rfl

/-! ### The end of a run (R141) -/

theorem endRun (h : s.Vouches spared) {e : EngineId} {c : Ctx} (hc : (s.engine e).ctx = some c)
    (hs : ∀ k ∈ spared, k.port = c.job.key.port) : (s.endRun e c.job.key).Vouches ∅ ∧
      SoundQueue s.queued (c.job :: (s.endRun e c.job.key).running) := by
  have withdrawn : (s.modPort c.job.key.port Port.withdraw).Vouches spared := h.stays _ .withdraw rfl
  have released := withdrawn.releaseReservation c.job.key
  unfold State.endRun
  generalize hr : (s.modPort c.job.key.port Port.withdraw).releaseReservation c.job.key = t at released ⊢
  rw [State.releaseReservation_eq] at hr
  have queued : t.queued = s.queued := by rw [← hr]; rfl
  have engine : (t.engine e).ctx = some c := by rw [← hr]; exact hc
  rw [← queued]
  exact released.goIdle engine hs

/-- A job put back at the front of its urgency group (R107). -/
theorem requeue (h : s.Vouches spared) {j : Job} (hq : SoundQueue s.queued (j :: s.running))
    (attempts : Nat) : (s.requeue { j with attempts := attempts }).Vouches spared where
  queue := hq.requeued attempts
  ports := h.ports
  quiet := h.quiet
  backed i r hr := (h.backed i r hr).congr rfl fun _ => rfl
  watched e c hc hn := (h.watched e c hc hn).congr rfl rfl

theorem abandon (h : s.Vouches spared) {e : EngineId} {c : Ctx} (hc : (s.engine e).ctx = some c)
    (hs : ∀ k ∈ spared, k.port = c.job.key.port) (sends : Bool) (attempts : Nat)
    (ho : sends = true → (s.port c.job.key.port).state ≠ .offline) :
    (s.abandon e c sends attempts).Vouches ∅ := by
  obtain ⟨ended, hq⟩ := h.endRun hc hs
  obtain ⟨slots, free, heq⟩ := s.endRun_eq e c.job.key
  have queued : (s.endRun e c.job.key).queued = s.queued := by rw [heq]
  rw [← queued] at hq
  cases sends with
  | false => exact ended.requeue hq attempts
  | true =>
    refine (ended.placeEnd c.job.key .deferred none ?_).requeue hq attempts
    rw [State.state_port_endRun]
    exact ho rfl

theorem endJob (h : s.Vouches ∅) {e : EngineId} {c : Ctx} (hc : (s.engine e).ctx = some c)
    (o : JobOutcome) (gen : Option Nat) : (s.endJob e c.job.key o gen).Vouches ∅ := by
  refine ((h.endRun hc nofun).1.placeEnd _ o gen ?_).rescanAfter 1
  rw [State.state_port_endRun]
  exact h.not_offline_of_running hc

/-- The port's job abandoned, every running job is watched again (R60, R62, R64, R150). -/
theorem abandonPort {p : PortId} (h : s.Vouches {k | k.port = p}) (sends : Bool)
    (ho : sends = true → (s.port p).state ≠ .offline) : (s.abandonPort p sends).Vouches ∅ := by
  cases hr : s.runningPort p with
  | some x =>
    obtain ⟨e, c⟩ := x
    obtain ⟨hc, rfl⟩ := State.runningPort_eq_some hr
    rw [State.abandonPort_of_some hr]
    exact h.abandon hc (fun _ hk => hk) sends _ ho
  | none =>
    rw [State.abandonPort_of_none hr]
    exact h.arrived fun e c hc => by simpa using State.runningWhere_eq_none.mp hr e c hc

/-- With every job of the port removed, every running job is watched (R66, R108, R152). -/
theorem removePortJobs {p : PortId} (h : s.Vouches {k | k.port = p}) :
    (s.removePortJobs p).Vouches ∅ := by
  have dequeued : (s.dequeuePort p).Vouches {k | k.port = p} :=
    (h.queueTo List.filter_sublist).rescanAfter _
  cases hr : (s.dequeuePort p).runningPort p with
  | some x =>
    obtain ⟨e, c⟩ := x
    obtain ⟨hc, rfl⟩ := State.runningPort_eq_some hr
    rw [State.removePortJobs_of_some hr]
    exact (dequeued.endRun hc fun _ hk => hk).1.rescanAfter 1
  | none =>
    rw [State.removePortJobs_of_none hr]
    exact dequeued.arrived fun e c hc => by simpa using State.runningWhere_eq_none.mp hr e c hc

theorem cancelJobs (h : s.Vouches ∅) (k : Key) : (s.cancelJobs k).Vouches ∅ := by
  have dequeued := (h.queueTo (q := withoutKey k s.queued) List.filter_sublist).rescanAfter
    (s.queued.length - (withoutKey k s.queued).length)
  unfold State.cancelJobs
  simp only
  split
  · rename_i e c hr
    exact dequeued.endJob (State.runningKey_eq_some hr).1 _ _
  · exact dequeued

/-! ### Enqueues and starts -/

theorem enqueue (h : s.Vouches spared) (k : Key) (o : JobOrigin) (u : Urgency) :
    (s.enqueue k o u).1.Vouches spared := by
  have queue : (s.enqueue k o u).1.QueueSound := (s.queueSound_iff.mpr h.queue).enqueue k o u
  rw [State.queueSound_iff] at queue
  rw [s.enqueue_eq] at queue ⊢
  exact ⟨queue, h.ports, h.quiet, fun i r hr => (h.backed i r hr).congr rfl (fun _ => rfl),
    fun e c hc hn => (h.watched e c hc hn).congr rfl rfl⟩

/-- A start temperature has not moved from itself (R147). -/
theorem not_moved_self (drift : Nat) (v : Int) : moved drift v v = false := by simp [moved]

/-- A job starts on an idle engine at its port's present temperature, its port without another job
(R111, R116). -/
theorem startJob (h : s.Vouches ∅) {e : EngineId} {j : Job} {v : Int} {timer : Timer}
    (he : (s.engine e).ctx = none) (hj : j ∈ s.queued)
    (hp : ∀ x ∈ s.running, x.key.port ≠ j.key.port)
    (ht : (s.port j.key.port).temp = .fresh v timer) : (s.startJob e j v).Vouches ∅ := by
  have engine (d : EngineId) : (s.startJob e j v).engine d =
      if e = d then { s.engine e with ctx := some (s.startCtx j v) } else s.engine d :=
    Table.get_set _ _ _ _
  have perm : (s.startJob e j v).running.Perm (j :: s.running) :=
    State.running_perm_of_idle (c := s.startCtx j v) (by rw [engine, if_pos rfl]) he fun d hd => by
      rw [engine, if_neg hd.symm]
  refine ⟨(h.queue.started hj hp).perm_running perm.symm, h.ports, fun d x hx => ?_,
    fun i r hr => (h.backed i r hr).congr rfl (fun _ => rfl), fun d x hx _ => ?_⟩
  · rw [engine] at hx
    split_ifs at hx
    · cases hx
      exact fun _ => ⟨rfl, rfl, nofun, rfl⟩
    · exact h.quiet d x hx
  · rw [engine] at hx ⊢
    split_ifs at hx ⊢
    · cases hx
      exact ⟨v, timer, ht, .inr (.inl (not_moved_self _ v))⟩
    · exact (h.watch hx).congr rfl rfl

/-! ### Engines at work -/

/-- A directive is placed for a job that waits for nothing (R124, R128). -/
theorem placeDirective (h : s.Vouches ∅) {e : EngineId} {c x : Ctx} (hc : (s.engine e).ctx = some c)
    (hx : c.GoesOn x) (hr : x.request = none) (resend : Bool) :
    (s.placeDirective e x resend).Vouches ∅ := by
  have placed : c.GoesOn { x with
      outstanding := some (s.engine e).nextId, leaving := some (s.engine e).nextId, timer := none
      retry := resend } := ⟨hx.job, hx.start, fun hw => by simp [hr] at hw, hx.failing⟩
  have engined := h.goesOn (f := fun y => { y with
    nextId := (s.engine e).nextId + 1
    ctx := some { x with
      outstanding := some (s.engine e).nextId, leaving := some (s.engine e).nextId, timer := none
      retry := resend } }) hc placed rfl rfl
  refine engined.stays x.job.key.port (.place _ ?_) (Port.place_temp _ _)
  rw [hx.job]
  exact h.not_offline_of_running hc


theorem proceed (h : s.Vouches ∅) {e : EngineId} {c x : Ctx} (hc : (s.engine e).ctx = some c)
    (hx : c.GoesOn x) : (s.proceed e x).Vouches ∅ := by
  rw [State.proceed]
  split_ifs with hsweep
  · refine h.placeDirective hc hx ?_ false
    by_contra hr
    have quiet := hx.quiet (Option.isSome_iff_ne_none.mpr hr)
    simp [quiet.2.2.2] at hsweep
  · exact h.setCtx hc hx

end State.Vouches

end Sys2Proof.Machine
end

section
/-! PROOF. What vouches for CURRENT records, along a port's ways out of ONLINE, received frames and
transmissions (R31 to R33, sections 3.3 and 3.4, R72). -/

namespace Sys2Proof.Machine

theorem State.abandon_silently (s : State) (e : EngineId) (c : Ctx) (attempts : Nat) :
    s.abandon e c false attempts =
      (s.endRun e c.job.key).requeue { c.job with attempts := attempts } := rfl

@[simp] theorem State.port_requeue (s : State) (j : Job) (p : PortId) :
    (s.requeue j).port p = s.port p := rfl

/-- A port's job abandoned without END leaves the port but for its pending frames (R141). -/
theorem State.port_abandonPort (s : State) (p : PortId) :
    ((s.abandonPort p false).port p).temp = (s.port p).temp ∧
      ((s.abandonPort p false).port p).reqs = (s.port p).reqs ∧
      ((s.abandonPort p false).port p).state = (s.port p).state := by
  cases hr : s.runningPort p with
  | some x =>
    obtain ⟨e, c⟩ := x
    obtain ⟨_, rfl⟩ := State.runningPort_eq_some hr
    rw [State.abandonPort_of_some hr, State.abandon_silently, State.port_requeue, State.port_endRun,
      if_pos rfl]
    exact ⟨rfl, rfl, rfl⟩
  | none =>
    rw [State.abandonPort_of_none hr]
    exact ⟨rfl, rfl, rfl⟩

@[simp] theorem Port.placeNak_temp (x : Port) : x.placeNak.temp = x.temp := by
  unfold Port.placeNak
  split_ifs <;> simp

@[simp] theorem Port.placeHeld_temp (x : Port) : x.placeHeld.temp = x.temp := by
  unfold Port.placeHeld
  split
  · rfl
  · split_ifs <;> rfl

@[simp] theorem Port.frameSent_temp (x : Port) : x.frameSent.temp = x.temp := by
  unfold Port.frameSent
  split_ifs <;> simp

namespace State.Vouches
variable {spared : Set Key} {s : State}

/-! ### A port's ways out of ONLINE -/

/-- The port that leaves has no CURRENT record; its jobs are still to go. -/
theorem leave (h : s.Vouches ∅) (p : PortId) {y : Port} (clear : Bool) (hy : y.Sound) :
    (s.leave p y clear).Vouches {k | k.port = p} := by
  have port (q : PortId) : (s.leave p y clear).port q = if p = q then y else s.port q :=
    Table.get_set _ _ _ _
  refine ⟨h.queue, fun q => ?_, h.quiet, fun i q hq hcur => ?_, fun e c hc hn => ?_⟩
  · rw [port]
    split_ifs
    · exact hy
    · exact h.ports q
  · change (s.slots.map (Slot.mapRecord (Record.onTempLost p clear))).get i = _ at hq
    rw [Table.get_map] at hq
    obtain ⟨r, hr, rfl⟩ := Slot.mapRecord_eq_occupied.mp hq
    by_cases hp : r.key.port = p
    · rw [Record.onTempLost, if_pos hp] at hcur
      simp only at hcur
      split_ifs at hcur
      contradiction
    · rw [Record.onTempLost, if_neg hp] at hcur ⊢
      rw [port, if_neg (Ne.symm hp)]
      exact h.backed i r hr hcur
  · refine (h.watch hc).congr ?_ rfl
    rw [port, if_neg (Ne.symm hn)]

theorem enterSyncing (h : s.Vouches ∅) (p : PortId) (hs : (s.port p).state ≠ .online)
    (ho : (s.port p).state ≠ .offline) : (s.enterSyncing p).Vouches ∅ := by
  rw [State.enterSyncing_eq]
  have left := h.leave p (y := { s.port p with state := .syncing, bad := 0, temp := .unknown }) false
    ((h.ports p).syncing hs ((h.ports p).receiving ho) _)
  exact (left.arrived fun e c hc => h.idle_of_not_online hs hc).decide

/-- ENABLE_PORT takes an OFFLINE port to SYNCING with its receiver hunting afresh (R57). -/
theorem enable (h : s.Vouches ∅) (p : PortId) (hs : (s.port p).state = .offline) :
    ((s.modPort p fun x => { x with rx := .hunting, char := none }).enterSyncing p).Vouches ∅ := by
  have hon : (s.port p).state ≠ .online := by simp [hs]
  rw [State.enterSyncing_eq, State.leave_modPort, State.port_modPort_self]
  have left := h.leave p (y := { s.port p with
    state := .syncing, bad := 0, temp := .unknown, rx := .hunting, char := none }) false
    ((h.ports p).syncing hon (rx := .hunting) nofun none)
  exact (left.arrived fun e c hc => h.idle_of_not_online hon hc).decide

theorem enterHeld (h : s.Vouches ∅) (p : PortId) : (s.enterHeld p).Vouches ∅ := by
  rw [State.enterHeld_eq]
  have left := h.leave p (y := (s.port p).held) false (h.ports p).held
  exact ((left.raise .portHeld).abandonPort false nofun).decide

theorem servePark (h : s.Vouches ∅) (p : PortId) (tag : Byte) (hs : (s.port p).state ≠ .offline) :
    (s.servePark p tag).Vouches ∅ := by
  rw [State.servePark_eq]
  have left := h.leave p (y := (s.port p).parks tag) false ((h.ports p).parks tag hs)
  exact (left.abandonPort false nofun).decide

theorem expireFreshness (h : s.Vouches ∅) (p : PortId) : (s.expireFreshness p).Vouches ∅ := by
  unfold State.expireFreshness
  split
  · exact h
  · rename_i v timer ht
    have hon := (h.ports p).online_of_fresh (by simp [ht])
    rw [State.loseTemp_eq_leave]
    have left := (h.reach timer.due).leave p (y := { s.port p with temp := .unknown }) false
      (h.ports p).unknown
    refine (left.abandonPort true fun _ => ?_).decide
    rw [State.port_leave_self]
    simp [hon]

theorem disable (h : s.Vouches ∅) (p : PortId) : (s.disable p).Vouches ∅ := by
  have left := h.leave p (y := (s.port p).disabled) true (h.ports p).disabled
  have framed : State.Vouches {k | k.port = p} { s.leave p (s.port p).disabled true with
    autoReqs := s.autoReqs.filter fun k => k.port != p } := left.frame rfl rfl rfl rfl rfl
  rw [State.disable_eq]
  exact framed.removePortJobs.decide

theorem restart (h : s.Vouches ∅) (p : PortId) {next : PortState} {reply : State → State}
    {f : OutFrame} (hr : ∀ t : State, t.profiles = s.profiles → reply t = t.emit p f)
    (hs : (s.port p).state ≠ .offline) (hn : next ≠ .offline) (hh : next ≠ .held) :
    (s.restart p next reply).Vouches ∅ := by
  rw [State.restart_eq s p next reply f hr]
  have left := h.leave p (y := (s.port p).restarted f) true ((h.ports p).restarted f hs)
  have arrived := left.abandonPort false nofun
  obtain ⟨ht, hreqs, hstate⟩ := State.port_abandonPort (s.leave p ((s.port p).restarted f) true) p
  rw [State.port_leave_self] at ht hreqs hstate
  have restarted : ((s.port p).restarted f).state = (s.port p).state ∧
      ((s.port p).restarted f).reqs = [] := by simp [Port.restarted, Port.clearPending]
  refine (arrived.modPort p (fun hp => hp.movesTo ?_ ?_ ?_ hn hh) rfl).decide
  · rwa [hstate, restarted.1]
  · rw [ht]
    rfl
  · rw [hreqs, restarted.2]

/-! ### Received frames -/

theorem hunt (h : s.Vouches ∅) (p : PortId) (hs : (s.port p).state ≠ .offline) : (s.hunt p).Vouches ∅ :=
  h.stays p (.receives hs nofun) rfl

/-- A good frame is ignored, answered MALFORMED, or acted on (R67). -/
theorem takeFrame {α : Type} (h : s.Vouches ∅) (p : PortId) (tag : Byte) (parsed : Option α)
    {act : State → α → State}
    (ha : ∀ a, (s.framed p).Vouches ∅ → ((s.framed p).port p).state ≠ .offline →
      (act (s.framed p) a).Vouches ∅) : (s.takeFrame p tag parsed act).Vouches ∅ := by
  rcases s.takeFrame_cases p tag parsed act with ⟨_, e⟩ | ⟨hs, e⟩ | ⟨hs, _, hc⟩
  · rwa [e]
  · exact e ▸ h.hunt p (by simp [hs])
  · have framed : (s.framed p).Vouches ∅ := h.stays p (.framed hs) rfl
    have hf : ((s.framed p).port p).state ≠ .offline := by simpa [State.framed] using hs
    rcases hc with ⟨a, _, e⟩ | e
    · exact e ▸ ha a framed hf
    · exact e ▸ framed.answerAtOnce p tag _ hf

theorem takeRequest (h : s.Vouches ∅) (p : PortId) (tag : Byte) (body : ReqBody)
    (hs : (s.port p).state ≠ .offline) : (s.takeRequest p tag body).Vouches ∅ := by
  unfold State.takeRequest State.queueRequest
  split_ifs with hon hroom
  · refine h.modPort p (fun ⟨h1, _, _, h4, h5, h6, h7, h8⟩ =>
      ⟨h1, ?_, fun _ => hon, h4, h5, h6, h7, h8⟩) rfl
    rw [List.length_append]
    exact hroom
  · exact h.answerAtOnce p tag _ hs
  · exact h.answerAtOnce p tag _ hs

/-- A port out of ONLINE comes to ONLINE (R58, R61). -/
theorem comesOnline (h : s.Vouches ∅) (p : PortId) (hs : (s.port p).state ≠ .offline)
    (hon : (s.port p).state ≠ .online) :
    (s.modPort p fun x => { x with state := .online }).Vouches ∅ :=
  h.modPort p (fun hp => hp.movesTo hs (hp.unknown_of_not_online hon) (hp.reqs_of_not_online hon) nofun
    nofun) rfl

theorem takeHello (h : s.Vouches ∅) (p : PortId) (tag version : Byte)
    (hs : (s.port p).state ≠ .offline) : (s.takeHello p tag version).Vouches ∅ := by
  unfold State.takeHello State.helloSyncing State.helloRestart
  split_ifs with hsync
  · have welcomed : (s.welcome p tag).Vouches ∅ := h.emit p _ hs
    have hstate : ((s.welcome p tag).port p).state = .syncing := by
      simpa [State.welcome, State.emit] using hsync
    exact (welcomed.comesOnline p (by simp [hstate]) (by simp [hstate])).enteredOnline
  · exact h.answerAtOnce p tag _ hs
  · have restarted := h.restart p (next := .online) (reply := fun t => t.welcome p tag)
      (f := .welcome tag ((s.profiles.get p).rows.map fun x => (x.laneCount, x.refEnable)))
      (fun t ht => by rw [State.welcome, ht]) hs nofun nofun
    exact restarted.enteredOnline
  · exact h.restart p (reply := fun t => t.answer p tag .badVersion none none) (fun _ _ => rfl) hs
      nofun nofun

theorem takeWake (h : s.Vouches ∅) (p : PortId) (tag : Byte) (hs : (s.port p).state ≠ .offline) :
    (s.takeWake p tag).Vouches ∅ := by
  unfold State.takeWake
  split
  · rename_i hp
    have answered := h.answer p tag .done none none hs
    have hstate : ((s.answer p tag .done none none).port p).state = .parked := by
      simpa [State.answer, State.emit] using hp
    exact (answered.comesOnline p (by simp [hstate]) (by simp [hstate])).enteredOnline
  · exact h.answerAtOnce p tag _ hs
  · exact h.answerAtOnce p tag _ hs
  · exact h
  · exact h

theorem takeResync (h : s.Vouches ∅) (p : PortId) (tag : Byte) (payload : List Byte) :
    (s.takeResync p tag payload).Vouches ∅ := by
  unfold State.takeResync
  split_ifs with hr
  · have hheld : ((s.hunt p).port p).state = .held := by simpa [State.hunt] using hr.1
    exact (h.hunt p (by simp [hr.1])).enterSyncing p (by simp [hheld]) (by simp [hheld])
  · exact h.takeFrame p tag _ fun _ framed _ => framed

theorem applyPolicy (h : s.Vouches ∅) (p : PortId) (hs : (s.port p).state ≠ .offline)
    (hh : (s.port p).state ≠ .held) : (s.applyPolicy p).Vouches ∅ := by
  unfold State.applyPolicy
  simp only
  split_ifs with hb
  · have counted (hp : (s.port p).Sound) :
        Port.Sound { s.port p with rx := .hunting, bad := (s.port p).bad + 1 } := by
      obtain ⟨h1, h2, h3, _, _, _, h7, h8⟩ := hp
      exact ⟨h1, h2, h3, hb.2, fun ho => (ho.elim hh hs).elim, by simp [hs], h7, h8⟩
    exact h.modPort p (fun hp => (counted hp).placeNak hs) (Port.placeNak_temp _)
  · exact h.enterHeld p

theorem takeBad (h : s.Vouches ∅) (p : PortId) : (s.takeBad p).Vouches ∅ := by
  unfold State.takeBad
  split
  · exact h
  · rename_i hs
    exact h.hunt p (by simp [hs])
  all_goals
    rename_i hs
    exact h.applyPolicy p (by simp [hs]) (by simp [hs])

end State.Vouches

/-! ### READY and RESULT (R124, R130) -/

section
variable {c : Ctx}

/-- A job that awaits a response, or is in ANNOUNCE or a sweep, waits for no store operation. -/
theorem Ctx.WaitsQuietly.request_eq_none (h : c.WaitsQuietly)
    (hn : ¬(c.outstanding = none ∧ c.timer = none ∧ c.phase ≠ .announce ∧ c.sweeping = false)) :
    c.request = none := by
  by_contra hr
  exact hn (h (Option.isSome_iff_ne_none.mpr hr))

theorem Ctx.goesOn_evaluate (hr : c.request = none) (ho : c.outstanding = none) (ht : c.timer = none) :
    c.GoesOn c.evaluate := by
  have idle : c.failing = false := by simp [Ctx.failing, hr]
  unfold Ctx.evaluate
  split_ifs <;>
    exact ⟨rfl, rfl, fun _ => ⟨ho, ht, nofun, by simp [Ctx.sweeping]⟩, fun hf => by simp [idle] at hf⟩

theorem Ctx.goesOn_endDelaySweep (hr : c.request = none) (ho : c.outstanding = none)
    (ht : c.timer = none) : c.GoesOn c.endDelaySweep := by
  have evaluated : c.GoesOn { c with delayEye := c.delayEyes } := .of_idle hr hr rfl rfl
  unfold Ctx.endDelaySweep
  simp only
  split_ifs
  · exact .of_idle hr hr rfl rfl
  · exact evaluated.trans (Ctx.goesOn_evaluate hr ho ht)

theorem Ctx.goesOn_endRefSweep (hr : c.request = none) (ho : c.outstanding = none)
    (ht : c.timer = none) : c.GoesOn c.endRefSweep := by
  have evaluated : c.GoesOn { c with refEye := c.refEyes } := .of_idle hr hr rfl rfl
  exact evaluated.trans (Ctx.goesOn_evaluate hr ho ht)

theorem Ctx.score_eq (c : Ctx) (counts : List Nat) :
    c.score counts = { c with
      delayMap := (c.score counts).delayMap, refMap := (c.score counts).refMap } := by
  unfold Ctx.score
  simp only
  split_ifs <;> rfl

theorem Ctx.goesOn_takeResult (hr : c.request = none) (counts : List Nat) :
    c.GoesOn (c.takeResult counts) := by
  have scored : c.GoesOn { c.score counts with outstanding := none, timer := none } := by
    rw [Ctx.score_eq]
    exact .of_idle hr hr rfl rfl
  have idle : (c.score counts).request = none := by
    rw [Ctx.score_eq]
    exact hr
  unfold Ctx.takeResult
  simp only
  split_ifs
  · exact scored.trans (.of_idle idle idle rfl rfl)
  · exact scored.trans (Ctx.goesOn_endRefSweep idle rfl rfl)
  · exact scored.trans (Ctx.goesOn_endDelaySweep idle rfl rfl)

end

namespace State.Vouches
variable {s : State}

theorem takeReady (h : s.Vouches ∅) (p : PortId) (id : Byte) : (s.takeReady p id).Vouches ∅ := by
  unfold State.takeReady
  split
  · rename_i e c hr
    have hc := (State.runningPort_eq_some hr).1
    split_ifs with ha
    · have idle := (h.quiet e c hc).request_eq_none (by simp [ha.2.1])
      exact h.proceed hc (.of_idle idle idle rfl rfl)
    · exact h
  · exact h

theorem takeResult (h : s.Vouches ∅) (p : PortId) (id : Byte) (counts : List Nat) :
    (s.takeResult p id counts).Vouches ∅ := by
  unfold State.takeResult
  split
  · rename_i e c hr
    have hc := (State.runningPort_eq_some hr).1
    split_ifs with ha
    · have idle := (h.quiet e c hc).request_eq_none (by simp [ha.2.1])
      exact h.proceed hc (Ctx.goesOn_takeResult idle counts)
    · exact h
  · exact h

/-! ### Transmission -/

theorem reportSent (h : s.Vouches ∅) (e : EngineId) (id : Byte) : (s.reportSent e id).Vouches ∅ := by
  unfold State.reportSent
  split
  · exact h
  · rename_i c hc
    have quiet := h.quiet e c hc
    simp only
    split_ifs with _ ho
    · exact h
    · have idle := quiet.request_eq_none (by simp [ho])
      exact h.setCtx hc (.of_idle idle idle rfl rfl)
    · exact h.proceed hc ⟨rfl, rfl, quiet, fun hf => hf⟩

theorem frameSent (h : s.Vouches ∅) (p : PortId) : (s.frameSent p).Vouches ∅ := by
  have sent : (s.modPort p Port.frameSent).Vouches ∅ := h.stays p .frameSent (Port.frameSent_temp _)
  unfold State.frameSent
  simp only
  split
  · exact h
  · split
    · exact sent.reportSent _ _
    · exact sent

theorem tick (h : s.Vouches ∅) : s.tick.Vouches ∅ :=
  (h.portsTo (u := s.ports.map Port.startTx)
    (fun p => by
      rw [Table.get_map]
      exact (h.ports p).startTx)
    fun p => by
      rw [Table.get_map]
      exact Port.startTx_temp _).frame rfl rfl rfl rfl rfl

end State.Vouches

end Sys2Proof.Machine
end

section
/-! PROOF. What vouches for CURRENT records, where temperatures, budgets and records change: TEMP, budget
writes, movement tests, and the store operations of services and jobs (chapters 2 and 4 to 7). -/

namespace Sys2Proof.Machine

/-! ### When an evaluation gives CURRENT (R35, R39, R41) -/

section
variable {b : Budget} {v : Int} {r : Record} {temp : TempState}

/-- TEMP leaves CURRENT what meets its budgets at the new temperature (R35). -/
theorem Record.fit_of_onTemp (hr : r.cond = .current → ∃ w, r.fit b w = true)
    (h : r.onTemp b v = .current) : r.fit b v = true := by
  cases hc : r.cond with
  | current =>
    obtain ⟨w, hw⟩ := hr hc
    simp only [Record.onTemp, hc, ite_eq_left_iff, reduceCtorEq, imp_false, not_not] at h
    simp only [Record.fit, Bool.and_eq_true] at hw ⊢
    exact ⟨⟨h, hw.1.2⟩, hw.2⟩
  | dormant => simpa [Record.onTemp, hc] using h
  | stale => simp [Record.onTemp, hc] at h

/-- A budget write leaves CURRENT what meets the new budgets, its port FRESH (R41). -/
theorem Record.fit_of_onBudget (hr : r.cond = .current → temp ≠ .unknown)
    (h : r.onBudget b temp = .current) : ∃ w timer, temp = .fresh w timer ∧ r.fit b w = true := by
  cases hc : r.cond with
  | current =>
    cases temp with
    | unknown => exact absurd rfl (hr hc)
    | fresh w timer => exact ⟨w, timer, rfl, by simpa [Record.onBudget, hc] using h⟩
  | dormant => simp [Record.onBudget, hc] at h
  | stale => simp [Record.onBudget, hc] at h

/-- The preload evaluation gives CURRENT to what meets its budgets, its port FRESH (R39). -/
theorem fit_of_preloadCondition (h : preloadCondition b temp r = .current) :
    ∃ w timer, temp = .fresh w timer ∧ r.fit b w = true := by
  cases temp with
  | unknown =>
    simp only [preloadCondition] at h
    split_ifs at h
  | fresh w timer => exact ⟨w, timer, rfl, by simpa [preloadCondition] using h⟩

end

/-! ### The tests waiting at an engine (R147) -/

/-- A test handed over is the last one for its port. -/
theorem Engine.lastTest_handed (x : Engine) (p q : PortId) (v : Int) :
    Engine.lastTest { x with tests := x.tests ++ [⟨p, v⟩] } q =
      if p = q then some v else x.lastTest q := by
  simp only [Engine.lastTest, List.filter_append, List.filter_cons, List.filter_nil, beq_iff_eq]
  split_ifs <;> simp

/-- The test taken was the last one for a port, or leaves the last one waiting. -/
theorem Engine.lastTest_taken {x : Engine} {test : TempTest} {rest : List TempTest} {q : PortId} {v : Int}
    (hx : x.tests = test :: rest) (h : x.lastTest q = some v) :
    Engine.lastTest { x with tests := rest } q = some v ∨ (test.port = q ∧ test.v = v) := by
  simp only [Engine.lastTest, hx, List.filter_cons] at h ⊢
  split_ifs at h with hq
  · cases hrest : rest.filter fun t => t.port == q with
    | nil => exact .inr ⟨by simpa using hq, by simpa [hrest] using h⟩
    | cons t l =>
      rw [hrest, List.getLast?_cons_cons] at h
      exact .inl h
  · exact .inl h

theorem State.modEngine_modEngine (s : State) (e : EngineId) (f g : Engine → Engine) :
    (s.modEngine e f).modEngine e g = s.modEngine e fun x => g (f x) := by
  simp [State.modEngine, State.engine]

namespace State.Vouches
variable {spared : Set Key} {s : State}

/-! ### TEMP (R31, R35) -/

/-- With the records of a port evaluated at its new temperature, the job of the port is still to be
tested (R31, R35). -/
theorem evaluateTemp (h : s.Vouches ∅) {p : PortId} (hon : (s.port p).state = .online) (v : Int)
    (timer : Timer) : ((s.modPort p fun x => { x with temp := .fresh v timer }).evaluateTemp p v).Vouches
      {k | k.port = p} := by
  refine evaluate ⟨h.queue, fun q => ?_, h.quiet, fun i q hq hcur => ?_, fun e c hc hn => ?_⟩
  · change ((s.modPort p fun x => { x with temp := .fresh v timer }).port q).Sound
    rw [State.port_modPort]
    split_ifs
    · obtain ⟨_, rest⟩ := h.ports p
      exact ⟨fun _ => hon, rest⟩
    · exact h.ports q
  · change (s.slots.map (Slot.mapRecord _)).get i = _ at hq
    rw [Table.get_map] at hq
    obtain ⟨r, hr, rfl⟩ := Slot.mapRecord_eq_occupied.mp hq
    change ∃ w t, ((s.modPort p fun x => { x with temp := .fresh v timer }).port r.key.port).temp = _ ∧ _
    rw [State.port_modPort]
    by_cases hp : r.key.port = p
    · simp only [if_pos hp] at hcur
      rw [if_pos hp.symm]
      refine ⟨v, timer, rfl, r.fit_of_onTemp (fun hc => ?_) hcur⟩
      obtain ⟨w, _, _, hw⟩ := h.backed i r hr hc
      exact ⟨w, hw⟩
    · simp only [if_neg hp] at hcur
      rw [if_neg (Ne.symm hp)]
      exact h.backed i r hr hcur
  · refine (h.watch hc).congr ?_ rfl
    change ((s.modPort p fun x => { x with temp := .fresh v timer }).port _).temp = _
    rw [State.port_modPort, if_neg (Ne.symm hn)]

/-- With the test of the present temperature handed over, the job of the port is watched (R31, R147). -/
theorem handTest {p : PortId} (h : s.Vouches {k | k.port = p}) {v : Int} {timer : Timer}
    (ht : (s.port p).temp = .fresh v timer) : (s.handTest p v).Vouches ∅ := by
  unfold State.handTest
  split
  · rename_i e c hr
    obtain ⟨hc, rfl⟩ := State.runningPort_eq_some hr
    have handed := h.modEngine e (f := fun x => { x with tests := x.tests ++ [⟨c.job.key.port, v⟩] }) rfl
      fun x hx => by
        obtain rfl := Option.some_inj.mp (hc.symm.trans hx)
        exact ⟨h.quiet e _ hc, fun hn => absurd rfl hn⟩
    refine handed.rewatch fun d x hx hp => ?_
    rw [State.engine_modEngine] at hx ⊢
    have hd : (s.engine d).ctx = some x := by split_ifs at hx with he <;> [exact he ▸ hx; exact hx]
    obtain rfl := h.engines_apart hc hd hp
    obtain rfl := Option.some_inj.mp (hc.symm.trans hd)
    rw [if_pos rfl]
    exact ⟨v, timer, ht, .inr (.inr (by rw [Engine.lastTest_handed, if_pos rfl]))⟩
  · rename_i hr
    exact h.arrived fun e c hc => by simpa using State.runningWhere_eq_none.mp hr e c hc

theorem takeTemp (h : s.Vouches ∅) (p : PortId) (v : Int) : (s.takeTemp p v).Vouches ∅ := by
  unfold State.takeTemp
  split_ifs with hv
  · have evaluated := h.evaluateTemp hv.1 v ⟨s.now, ms (10 * s.freshTime)⟩
    refine (evaluated.handTest (timer := ⟨s.now, ms (10 * s.freshTime)⟩) ?_).decide
    obtain ⟨_, _, effects⟩ := State.evaluate_spec
      (s.modPort p fun x => { x with temp := .fresh v ⟨s.now, ms (10 * s.freshTime)⟩ }) _
    rw [State.evaluateTemp, effects.temp, State.port_modPort_self]
  · exact h

/-! ### Budget writes (R40 to R42) -/

theorem budget_setBudget (s : State) (c d : ClassId) (b : Budget) :
    (s.setBudget c b).budget d = if c = d then b else s.budget d := Table.get_set _ _ _ _

/-- A held byte of the age limit is no budget yet (R171). -/
theorem setBudget_ageHeld (h : s.Vouches spared) (c : ClassId) (low : Option Byte) :
    (s.setBudget c { s.budget c with ageHeld := low }).Vouches spared := by
  refine ⟨h.queue, h.ports, h.quiet, fun i r hr => (h.backed i r hr).congr rfl fun v => ?_,
    fun e x hx hn => (h.watched e x hx hn).congr rfl ?_⟩ <;>
  · rw [budget_setBudget]
    split_ifs with hd
    · exact hd ▸ rfl
    · rfl

/-- With the records of a class evaluated under its new budgets, its jobs are still to be tested where the
drift budget has changed (R41, R42). -/
theorem evaluateBudget (h : s.Vouches ∅) (c : ClassId) {b : Budget}
    (hd : ∀ k ∉ spared, k.cls = c → b.drift = (s.budget c).drift) :
    ((s.setBudget c b).evaluateBudget c).Vouches spared := by
  have self : (s.setBudget c b).budget c = b := (budget_setBudget s c c b).trans (if_pos rfl)
  refine evaluate ⟨h.queue, h.ports, h.quiet, fun i q hq hcur => ?_, fun e x hx hn => ?_⟩
  · change (s.slots.map (Slot.mapRecord _)).get i = _ at hq
    rw [Table.get_map] at hq
    obtain ⟨r, hr, rfl⟩ := Slot.mapRecord_eq_occupied.mp hq
    change ∃ w t, (s.port r.key.port).temp = _ ∧ r.fit ((s.setBudget c b).budget r.key.cls) w = true
    by_cases hc : r.key.cls = c
    · simp only [if_pos hc, self] at hcur
      rw [hc, self]
      refine r.fit_of_onBudget (fun hcond => ?_) hcur
      obtain ⟨w, t, ht, _⟩ := h.backed i r hr hcond
      exact fun hu => nomatch ht.symm.trans hu
    · simp only [if_neg hc] at hcur
      rw [budget_setBudget, if_neg (Ne.symm hc)]
      exact h.backed i r hr hcur
  · refine (h.watch hx).congr rfl ?_
    change ((s.setBudget c b).budget x.job.key.cls).drift = _
    rw [budget_setBudget]
    split_ifs with hc
    · rw [← hc]
      exact hd _ hn hc.symm
    · rfl

/-- With the tests of a class handed over, its jobs are watched (R42, R147). -/
theorem handBudgetTests {c : ClassId} (h : s.Vouches {k | k.cls = c})
    (hf : ∀ e x, (s.engine e).ctx = some x → (s.port x.job.key.port).temp ≠ .unknown) :
    (s.handBudgetTests c).Vouches ∅ := by
  have engine (e : EngineId) : (s.handBudgetTests c).engines.get e = _ := s.engine_handBudgetTests c e
  refine (h.enginesTo (spared' := ∅) (u := (s.handBudgetTests c).engines) (fun e => ?_)
    fun e x hx => ?_ :)
  · rw [engine]
  · rw [engine] at hx ⊢
    have hx : (s.engine e).ctx = some x := hx
    refine ⟨h.quiet e x hx, fun _ => ?_⟩
    cases ht : (s.port x.job.key.port).temp with
    | unknown => exact absurd ht (hf e x hx)
    | fresh v timer =>
      by_cases hc : x.job.key.cls = c
      · have handed : s.budgetTests c (s.engine e) = [⟨x.job.key.port, v⟩] := by
          simp [State.budgetTests, hx, ht, hc]
        rw [handed]
        exact ⟨v, timer, ht, .inr (.inr ((Engine.lastTest_handed _ _ _ v).trans (if_pos rfl)))⟩
      · have none : s.budgetTests c (s.engine e) = [] := by simp [State.budgetTests, hx, ht, hc]
        rw [none, List.append_nil]
        exact h.watched e x hx hc

theorem writeDriftBudget (h : s.Vouches ∅) (c : ClassId) (v : Byte) :
    (s.writeDriftBudget c v).Vouches ∅ := by
  unfold State.writeDriftBudget
  split_ifs
  · have evaluated := h.evaluateBudget c (b := { s.budget c with drift := v.toNat })
      (spared := {k | k.cls = c}) fun k hn hk => absurd hk hn
    obtain ⟨⟨_, _, effects⟩, engines⟩ :=
      s.budgetTaken_evaluateBudget c { s.budget c with drift := v.toNat }
    refine evaluated.handBudgetTests fun e x hx => ?_
    rw [State.engine, engines] at hx
    rw [effects.temp]
    exact (h.watch hx).fresh
  · exact h

theorem writeAgeLimit (h : s.Vouches ∅) (c : ClassId) (v : Byte) : (s.writeAgeLimit c v).Vouches ∅ := by
  unfold State.writeAgeLimit
  simp only
  split_ifs
  · exact h.evaluateBudget c fun _ _ _ => rfl
  · exact h.setBudget_ageHeld c none

theorem writeTrimLimit (h : s.Vouches ∅) (c : ClassId) (v : Byte) : (s.writeTrimLimit c v).Vouches ∅ := by
  unfold State.writeTrimLimit
  split_ifs
  · exact h.evaluateBudget c fun _ _ _ => rfl
  · exact h

/-! ### Movement tests and starts (R111, R115, R147 to R149) -/

theorem takeTest (h : s.Vouches ∅) (e : EngineId) : (s.takeTest e).Vouches ∅ := by
  unfold State.takeTest State.onMoved
  split
  · exact h
  · rename_i test rest htests
    simp only
    split
    · rename_i hc
      exact h.modEngine e rfl fun c hc' => absurd (hc.symm.trans hc') nofun
    · rename_i c hc
      have quiet := h.quiet e c hc
      have only {x : Ctx} (hx : (s.engine e).ctx = some x) : x = c := Option.some_inj.mp (hx.symm.trans hc)
      have taken (spared : Set Key) (hw : c.job.key ∉ spared →
          s.Watches { s.engine e with tests := rest } c) :
          (s.modEngine e fun x => { x with tests := rest }).Vouches spared :=
        (h.spare spared).modEngine e rfl fun x hx => by
          obtain rfl := only hx
          exact ⟨quiet, hw⟩
      obtain ⟨v, timer, ht, hw⟩ := h.watch hc
      split_ifs with hmoved _ hfail
      · have spare := taken {k | k.port = c.job.key.port} fun hn => absurd rfl hn
        exact spare.abandon (by simpa using hc) (fun _ hk => hk) true 1 fun _ => h.not_offline_of_running hc
      · exact taken ∅ fun _ => ⟨v, timer, ht, .inl hfail⟩
      · rw [State.setCtx, State.modEngine_modEngine]
        refine h.modEngine e (by simp [hc, Ctx.askFailure]) fun x hx => ?_
        cases hx
        exact ⟨(c.goesOn_askFailure .unsettled).quiet, fun _ => ⟨v, timer, ht, .inl rfl⟩⟩
      · refine taken ∅ fun _ => ⟨v, timer, ht, hw.imp_right fun hw => ?_⟩
        rcases hw with hstill | hlast
        · exact .inl hstill
        · rcases Engine.lastTest_taken htests hlast with hrest | ⟨hport, hv⟩
          · exact .inr hrest
          · left
            rw [← hv]
            simpa [hport] using hmoved

theorem temp_of_startable {j : Job} {v : Int} (h : s.startable j = some v) :
    ∃ timer, (s.port j.key.port).temp = .fresh v timer := by
  unfold State.startable at h
  split at h
  · rename_i timer ht
    simp only [Option.ite_none_right_eq_some, Option.some.injEq] at h
    exact ⟨timer, h.2 ▸ ht⟩
  · cases h

theorem decideStart (h : s.Vouches ∅) : s.decideStart.Vouches ∅ := by
  have begun : State.Vouches ∅ { s with decision := false } := h.frame rfl rfl rfl rfl rfl
  unfold State.decideStart
  split_ifs
  · simp only
    split
    · rename_i e j v he hj
      split_ifs
      · obtain ⟨x, hx, hv⟩ := List.exists_of_findSome?_eq_some hj
        obtain ⟨w, hw, hjv⟩ := Option.map_eq_some_iff.mp hv
        cases hjv
        obtain ⟨_, _, hport⟩ := State.Fits.startable_eq_some hw
        obtain ⟨timer, ht⟩ := temp_of_startable hw
        exact begun.startJob (by simpa [State.idleEngine] using List.find?_some he) hx hport ht
      · exact begun
    · exact begun
  · exact h

theorem enqueueAuto (h : s.Vouches ∅) (k : Key) : (s.enqueueAuto k).Vouches ∅ := by
  unfold State.enqueueAuto
  simp only
  split_ifs
  · exact (h.enqueue k _ _).raise _
  · exact h.enqueue k _ _

theorem takeAutoRequest (h : s.Vouches ∅) : s.takeAutoRequest.Vouches ∅ := by
  unfold State.takeAutoRequest
  split
  · exact h
  · rename_i rest _
    have taken : State.Vouches ∅ { s with autoReqs := rest } := h.frame rfl rfl rfl rfl rfl
    simp only
    split_ifs
    · exact taken
    · exact taken.enqueueAuto _

theorem rescanWalk (h : s.Vouches ∅) (l : List Record) : (s.rescanWalk l).Vouches ∅ := by
  induction l generalizing s with
  | nil => exact h
  | cons r l ih =>
    rw [State.rescanWalk]
    split_ifs
    · exact h
    · exact ih (h.enqueue r.key .auto .routine)
    · exact ih h

theorem rescan (h : s.Vouches ∅) : s.rescan.Vouches ∅ := by
  unfold State.rescan
  split
  · exact h
  · rename_i n _
    have counted : State.Vouches ∅ { s with rescans := n } := h.frame rfl rfl rfl rfl rfl
    exact (counted.rescanWalk _).decide

/-! ### Timers -/

theorem expireAge (h : s.Vouches ∅) (i : SlotId) : (s.expireAge i).Vouches ∅ := by
  unfold State.expireAge
  split
  · rename_i r hr
    simp only
    split_ifs with hage
    · refine (h.reach _).setSlot i fun q hq hcur => ?_
      cases hq
      obtain ⟨v, timer, ht, hfit⟩ := h.backed i r hr hcur
      refine ⟨v, timer, ht, ?_⟩
      simp only [Record.fit, Bool.and_eq_true] at hfit ⊢
      exact ⟨⟨hfit.1.1, hage⟩, hfit.2⟩
    · exact (h.reach _).setStale i _
  · exact h
  · exact h

theorem expireTrial (h : s.Vouches ∅) (e : EngineId) : (s.expireTrial e).Vouches ∅ := by
  unfold State.expireTrial
  split
  · exact h
  · rename_i c hc
    split
    · exact h
    · rename_i timer ht
      have quiet := h.quiet e c hc
      simp only
      split_ifs
      · exact (h.reach _).setCtx hc (c.goesOn_askFailure _)
      · exact (h.reach _).placeDirective hc (.refl quiet) (quiet.request_eq_none (by simp [ht])) true

/-! ### Services -/

theorem serve {α : Type} (h : s.Vouches ∅) (p : PortId) (kind : ReqBody → Option α)
    {f : State → Byte → α → State}
    (hf : ∀ t tag a, t.Vouches ∅ → (t.port p).state ≠ .offline → (f t tag a).Vouches ∅) :
    (s.serve p kind f).Vouches ∅ := by
  rcases s.serve_cases p kind f with e | ⟨tag, body, a, ⟨⟨rest, hreqs⟩, _⟩, _, e⟩
  · rwa [e]
  · have taken : (s.takeHead p).Vouches ∅ :=
      (h.stays p (f := fun x => { x with reqs := x.reqs.tail }) .tail rfl).granted _
    have online : (s.port p).state = .online := by
      by_contra ho
      simp [(h.ports p).reqs_of_not_online ho] at hreqs
    have port : (s.takeHead p).port p = { s.port p with reqs := (s.port p).reqs.tail } :=
      Table.get_set_self _ _ _
    exact e ▸ hf _ tag a taken (by simp [port, online])

theorem ifEnabled (h : s.Vouches ∅) {k : Key} (tag : Byte) {f : State → State}
    (hs : (s.port k.port).state ≠ .offline) (hf : (f s).Vouches ∅) :
    (s.ifEnabled k tag f).Vouches ∅ := by
  unfold State.ifEnabled
  split_ifs
  · exact hf
  · exact h.answer k.port tag _ _ _ hs

theorem serveLookup (h : s.Vouches ∅) (k : Key) (tag : Byte) (hs : (s.port k.port).state ≠ .offline) :
    (s.serveLookup k tag).Vouches ∅ := by
  unfold State.serveLookup
  split
  · exact (h.touch _).emit k.port _ (by rwa [State.Fits.port_touch])
  · exact h.answer k.port tag _ _ _ hs

theorem serveApplied (h : s.Vouches ∅) (k : Key) (tag : Byte) (g : Nat)
    (hs : (s.port k.port).state ≠ .offline) : (s.serveApplied k tag g).Vouches ∅ := by
  unfold State.serveApplied
  split
  · rename_i i r hr
    have touched := State.slot_touch (State.recordOf_eq_some.mp hr).2
    have hport : ((s.touch i).port k.port).state ≠ .offline := by rwa [State.Fits.port_touch]
    simp only
    split_ifs
    · have applied := (h.touch i).record (q := { r with stamp := s.advanceStamp.stamp, applied := some g })
        touched rfl id fun _ _ => rfl
      rw [touched]
      exact applied.answer k.port tag _ _ _ hport
    · exact (h.touch i).answer k.port tag _ _ _ hport
  · exact h.answer k.port tag _ _ _ hs

end State.Vouches

/-- Check 6 of a TRIM passes on the lanes whose trims it leaves within the limit (R91, R92). -/
theorem trimOk_trimmedLanes (b : Budget) (lanes : List LaneEntry) (deltas : List Int) :
    trimOk b (trimmedLanes lanes deltas) = onEveryLane (trimWithin b.trimLimit) lanes deltas := by
  have within : List.zipWith (trimWithin b.trimLimit) lanes deltas =
      (trimmedLanes lanes deltas).map fun l => Decidable.decide (l.trim.natAbs ≤ b.trimLimit) := by
    rw [trimmedLanes, List.map_zipWith]
    rfl
  rw [onEveryLane, within, List.all_map]
  rfl

theorem State.onEveryLane_of_trimCheck {s : State} {k : Key} {r : Record} {g : Nat} {deltas : List Int}
    (h : s.trimCheck k r g deltas = none) :
    onEveryLane (trimWithin (s.budget k.cls).trimLimit) r.lanes deltas = true := by
  unfold State.trimCheck at h
  split_ifs at h with _ _ _ _ _ hwithin
  simpa using hwithin

/-- A touch leaves the budgets (R12). -/
theorem State.budget_touch (s : State) (i : SlotId) : (s.touch i).budget = s.budget := by
  obtain ⟨f, n, he⟩ := s.advanceStamp_eq
  rw [State.touch, he]
  rfl

namespace State.Vouches
variable {s : State}

theorem serveTrim (h : s.Vouches ∅) (k : Key) (tag : Byte) (g : Nat) (deltas : List Int)
    (hs : (s.port k.port).state ≠ .offline) : (s.serveTrim k tag g deltas).Vouches ∅ := by
  unfold State.serveTrim
  split
  · rename_i i r hr
    obtain ⟨hslotOf, hslot⟩ := State.recordOf_eq_some.mp hr
    have touched := State.slot_touch hslot
    have hport : ((s.touch i).port k.port).state ≠ .offline := by rwa [State.Fits.port_touch]
    simp only
    split
    · rename_i hcheck
      have key : r.key = k := State.key_of_recordOf hr
      have within := State.onEveryLane_of_trimCheck hcheck
      have trimmed := (h.touch i).setSlot i (x := .occupied
        (Record.trimmed { r with stamp := s.advanceStamp.stamp } deltas)) fun q hq hcur => by
          cases hq
          obtain ⟨v, timer, ht, hfit⟩ := (h.touch i).backed i _ touched hcur
          refine ⟨v, timer, ht, ?_⟩
          simp only [Record.fit, Bool.and_eq_true] at hfit ⊢
          refine ⟨hfit.1, (trimOk_trimmedLanes _ _ _).trans ?_⟩
          rw [State.budget_touch]
          change onEveryLane (trimWithin (s.budget r.key.cls).trimLimit) r.lanes deltas = true
          rwa [key]
      rw [touched]
      exact trimmed.answer k.port tag _ _ _ hport
    · exact (h.touch i).answer k.port tag _ _ _ hport
    · exact ((h.touch i).answer k.port tag _ _ _ hport).setCondition_stale i
    · exact (h.touch i).answer k.port tag _ _ _ hport
  · exact h.answer k.port tag _ _ _ hs

theorem serveRetire (h : s.Vouches ∅) (k : Key) (tag : Byte) (hs : (s.port k.port).state ≠ .offline) :
    (s.serveRetire k tag).Vouches ∅ := by
  unfold State.serveRetire
  split
  · split_ifs
    · exact h.answer k.port tag _ _ _ hs
    · exact ((h.releaseSlot _).answer k.port tag _ _ _ hs).cancelJobs k
  · exact (h.answer k.port tag _ _ _ hs).cancelJobs k

theorem serveTrain (h : s.Vouches ∅) (k : Key) (tag : Byte) (u : Urgency)
    (hs : (s.port k.port).state ≠ .offline) : (s.serveTrain k tag u).Vouches ∅ := by
  refine ((h.clearHoldOff k).enqueue k .port u).answer k.port tag _ _ _ ?_
  rw [State.enqueue_eq]
  change ((s.clearHoldOff k).port k.port).state ≠ _
  rwa [State.Fits.port_clearHoldOff]

/-! ### The store operations of a job -/

theorem onRequest (h : s.Vouches ∅) (e : EngineId) {f : Ctx → StoreRequest → State}
    (hf : ∀ c q, (s.engine e).ctx = some c → c.request = some q → (f c q).Vouches ∅) :
    (s.onRequest e f).Vouches ∅ := by
  rcases s.onRequest_cases e f with he | ⟨c, q, hc, hq, he⟩
  · rwa [he]
  · exact he ▸ hf c q hc hq

theorem announce (h : s.Vouches ∅) {e : EngineId} {c : Ctx} (hc : (s.engine e).ctx = some c)
    (hr : c.request = some .reserve) (prior : Option (List PriorLane)) :
    (s.announce e c prior).Vouches ∅ := by
  have announced : c.GoesOn { c.clearMaps with phase := .announce, prior := prior, request := none } :=
    ⟨rfl, rfl, fun hw => by simp at hw, fun hf => by simp [Ctx.failing, hr] at hf⟩
  exact h.placeDirective hc announced rfl false

theorem reserve (h : s.Vouches ∅) {e : EngineId} {c : Ctx} (hc : (s.engine e).ctx = some c)
    (hr : c.request = some .reserve) : (s.reserve e c).Vouches ∅ := by
  unfold State.reserve State.endStoreFull
  simp only
  split
  · exact h.announce hc hr _
  · exact h
  · split
    · rename_i i t ha
      obtain ⟨heq, _⟩ := State.allocate_spec ha
      have hct : (t.engine e).ctx = some c := by
        rw [heq]
        exact hc
      have reserved : (t.reserveSlot i c.job.key).Vouches ∅ :=
        ((h.allocate ha).setSlot i (x := .reserved c.job.key (t.profile c.job.key).laneCount) nofun).frame
          rfl rfl rfl rfl rfl
      exact reserved.announce (show ((t.reserveSlot i c.job.key).engine e).ctx = some c from hct) hr none
    · exact ((h.raise _).endJob (e := e) (c := c) hc _ _).raise _

/-- A commit writes trim offsets of 0 (R136). -/
theorem trim_commitLane (c : Ctx) (old : Option (List LaneEntry)) (i : Nat) :
    (c.commitLane old i).trim = 0 := by
  unfold Ctx.commitLane
  simp only
  split <;> rfl

/-- A commit of a job that has not moved leaves a record that meets its budgets (R34, R38). -/
theorem backs_of_commit {c : Ctx} {r : Record} {old : Option (List LaneEntry)} (hs : s.steady c = true)
    (hk : r.key = c.job.key) (ht : r.trained = c.startTemp) (ha : r.age = 0)
    (hl : r.lanes = c.commitLanes old) : s.Backs r := fun _ => by
  obtain ⟨v, timer, htemp, hdrift⟩ := State.steady_iff.mp hs
  rw [hk]
  refine ⟨v, timer, htemp, Record.fit_iff.mpr ⟨by rw [ht]; omega, by omega, fun l hmem => ?_⟩⟩
  rw [hl, Ctx.commitLanes] at hmem
  obtain ⟨i, _, rfl⟩ := List.mem_map.mp hmem
  simp [trim_commitLane]

theorem commit (h : s.Vouches ∅) {e : EngineId} {c : Ctx} (hc : (s.engine e).ctx = some c)
    (hs : s.steady c = true) : (s.commit e c).Vouches ∅ := by
  unfold State.commit
  simp only
  split
  · exact h
  · rename_i i hi
    split
    · exact h
    · rename_i n _
      obtain ⟨f, m, hadv⟩ := s.advanceStamp_eq
      have steady : s.advanceStamp.steady c = true := by
        rw [hadv]
        exact hs
      have hct : (s.advanceStamp.engine e).ctx = some c := by
        rw [hadv]
        exact hc
      have created := h.advanceStamp.setSlot i
        (x := .occupied (c.newRecord s.advanceStamp.stamp s.now n)) fun r hr => by
          cases hr
          exact backs_of_commit steady rfl rfl rfl rfl
      exact created.endJob (e := e) (c := c) hct _ _
    · rename_i r hx
      have hkey := State.key_of_slotOf hi
      rw [hx] at hkey
      have rewritten := h.setSlot i (x := .occupied (c.rewrite r s.now)) fun q hq => by
        cases hq
        exact backs_of_commit hs (Option.some_inj.mp hkey) rfl rfl rfl
      exact rewritten.endJob (e := e) (c := c) hc _ _

theorem endFailed (h : s.Vouches ∅) {e : EngineId} {c : Ctx} (hc : (s.engine e).ctx = some c)
    (o : JobOutcome) : (s.endFailed e c o).Vouches ∅ :=
  ((h.setHoldOff c.job.key).endJob (by rwa [State.Fits.engine_setHoldOff]) o none).raise _

end State.Vouches

end Sys2Proof.Machine
end

section
/-! PROOF. What vouches for CURRENT records, along the mailbox commands, register writes and resets, and
O59. -/

namespace Sys2Proof.Machine

namespace State.Vouches
variable {s : State}

/-! ### PRELOAD_RECORD (R23, R39, R176) -/

theorem preloadOver (h : s.Vouches ∅) (m : Memory) (lanes : List LaneEntry) (i : SlotId) (r : Record) :
    (s.preloadOver m lanes i r).Vouches ∅ := by
  have written := h.setSlot i (x := .occupied { r.advance.preloaded m lanes s.now with
      cond := preloadCondition (s.budget r.key.cls) (s.port r.key.port).temp
        (r.advance.preloaded m lanes s.now) }) fun q hq hcur => by
    cases hq
    exact fit_of_preloadCondition hcur
  unfold State.preloadOver
  simp only
  split_ifs
  · exact (written.notify r _ _).staleRequest _
  · exact written.notify r _ _

theorem preloadNew (h : s.Vouches ∅) (m : Memory) (lanes : List LaneEntry) (i : SlotId) (k : Key) :
    (s.preloadNew m lanes i k).Vouches ∅ := by
  obtain ⟨f, n, hadv⟩ := s.advanceStamp_eq
  have created (r : Record) (hk : r.key = k)
      (hc : r.cond = .current → preloadCondition (s.budget k.cls) (s.port k.port).temp
        { r with cond := .dormant } = .current) :
      (s.advanceStamp.takeSlot i (.occupied r) (s.profile k).laneCount).Vouches ∅ := by
    refine (h.advanceStamp.setSlot i (x := .occupied r) fun q hq hcur => ?_).frame rfl rfl rfl rfl rfl
    cases hq
    obtain ⟨v, timer, ht, hfit⟩ := fit_of_preloadCondition (hc hcur)
    rw [hk, hadv]
    exact ⟨v, timer, ht, hfit⟩
  unfold State.preloadNew
  simp only
  split_ifs
  · exact (created _ rfl id).turnedStale _
  · exact created _ rfl id

theorem carryPreload (h : s.Vouches ∅) (c : CmdCopy) (k : Key) : (s.carryPreload c k).Vouches ∅ := by
  unfold State.carryPreload
  simp only
  split_ifs
  · exact h.endCommand _ _
  · exact h.endCommand _ _
  · split
    · exact h.endCommand _ _
    · exact h.endCommand _ _
  · split
    · split
      · exact (h.preloadOver _ _ _ _).endCommand _ _
      · split
        · rename_i ha
          exact ((h.allocate ha).preloadNew _ _ _ k).endCommand _ _
        · exact (h.raise _).endCommand _ _
    · exact h.endCommand _ _

/-! ### The other commands -/

theorem carryEnablePort (h : s.Vouches ∅) (c : CmdCopy) : (s.carryEnablePort c).Vouches ∅ := by
  unfold State.carryEnablePort
  split
  · exact h.endCommand _ _
  · split_ifs with hs
    · exact (h.enable _ hs).endCommand _ _
    · exact h.endCommand _ _

theorem carryClearHold (h : s.Vouches ∅) (c : CmdCopy) : (s.carryClearHold c).Vouches ∅ := by
  unfold State.carryClearHold
  split
  · exact h.endCommand _ _
  · split_ifs with hs
    · exact (h.enterSyncing _ (by simp [hs]) (by simp [hs])).endCommand _ _
    · exact h.endCommand _ _

theorem carryDisablePort (h : s.Vouches ∅) (c : CmdCopy) : (s.carryDisablePort c).Vouches ∅ := by
  unfold State.carryDisablePort
  split
  · exact h.endCommand _ _
  · split_ifs
    · exact h.endCommand _ _
    · exact (h.disable _).endCommand _ _

theorem carryCancelTraining (h : s.Vouches ∅) (c : CmdCopy) : (s.carryCancelTraining c).Vouches ∅ := by
  unfold State.carryCancelTraining
  split
  · exact h.endCommand _ _
  · split_ifs
    · exact (h.cancelJobs _).endCommand _ _
    · exact h.endCommand _ _

theorem carryGetProfile (h : s.Vouches ∅) (c : CmdCopy) : (s.carryGetProfile c).Vouches ∅ := by
  unfold State.carryGetProfile
  split
  · exact h.endCommand _ _
  · exact h.endWithBuffer _

theorem carryReadRecord (h : s.Vouches ∅) (c : CmdCopy) (k : Key) : (s.carryReadRecord c k).Vouches ∅ := by
  unfold State.carryReadRecord
  split
  · exact h.endWithBuffer _
  · exact h.endCommand _ _

theorem carryPin (h : s.Vouches ∅) (k : Key) (on : Bool) : (s.carryPin k on).Vouches ∅ := by
  unfold State.carryPin
  split
  · rename_i i r hr
    have pinned := h.record (q := { r with pinned := on }) (State.recordOf_eq_some.mp hr).2 rfl id
      fun _ _ => rfl
    exact pinned.endCommand _ _
  · exact h.endCommand _ _

theorem carryRetireRecord (h : s.Vouches ∅) (c : CmdCopy) (k : Key) :
    (s.carryRetireRecord c k).Vouches ∅ := by
  unfold State.carryRetireRecord
  split
  · exact ((h.retireHost _ _).cancelJobs k).endCommand _ _
  · exact (h.cancelJobs k).endCommand _ _

theorem carryQueueTraining (h : s.Vouches ∅) (c : CmdCopy) (k : Key) :
    (s.carryQueueTraining c k).Vouches ∅ := by
  unfold State.carryQueueTraining
  split
  · exact h.endCommand _ _
  · exact ((h.clearHoldOff k).enqueue k _ _).endCommand _ _

theorem carrySetProfile (h : s.Vouches ∅) (c : CmdCopy) (k : Key) : (s.carrySetProfile c k).Vouches ∅ := by
  unfold State.carrySetProfile
  split_ifs
  · exact h.endCommand _ _
  · split
    · exact h.endCommand _ _
    · rename_i p _
      have set := h.setProfile k p
      simp only
      split_ifs
      · split
        · exact ((set.retireHost _ _).cancelJobs k).endCommand _ _
        · exact set.endCommand _ _
      · exact set.endCommand _ _

theorem settle (h : s.Vouches ∅) : s.settle.Vouches ∅ := by
  rcases s.settle_cases with e | ⟨c, _, ⟨_, e⟩ | ⟨_, e⟩ | ⟨_, e⟩ | ⟨_, e⟩⟩
  · rwa [e]
  · exact e ▸ h.carryEnablePort c
  · exact e ▸ h.carryClearHold c
  · exact e ▸ h.carryGetProfile c
  · exact e ▸ h.endWithBuffer _

theorem onGrantKey (h : s.Vouches ∅) (code : Byte) {f : State → CmdCopy → Key → State}
    (hf : ∀ t c k, t.Vouches ∅ → (f t c k).Vouches ∅) : (s.onGrantKey code f).Vouches ∅ := by
  have granted := h.granted mailboxRequester
  rcases s.onGrantKey_cases code f with e | ⟨c, _, ⟨k, _, e⟩ | e⟩
  · rwa [e]
  · exact e ▸ hf _ c k granted
  · exact e ▸ granted.endCommand _ _

theorem onCommand (h : s.Vouches ∅) (code : Byte) {f : State → CmdCopy → State}
    (hf : ∀ c, (f s c).Vouches ∅) : (s.onCommand code f).Vouches ∅ := by
  rcases s.onCommand_cases code f with e | ⟨c, _, _, e⟩
  · rwa [e]
  · exact e ▸ hf c

theorem startCommand (h : s.Vouches ∅) (code : Byte) : (s.startCommand code).Vouches ∅ := by
  have started : State.Vouches ∅ { s with mb := { s.mb with
      cmd := code, result := .none, retired := false, copy := some (s.mb.copyFor code) } } :=
    h.frame rfl rfl rfl rfl rfl
  unfold State.startCommand
  simp only
  split_ifs
  · exact h.raise _
  · split
    · exact started.endCommand _ _
    · exact started
  · exact started.endCommand _ _

/-! ### Resets -/

/-- With no record and no job there is nothing to vouch for. -/
theorem of_empty (hp : ∀ p, (s.port p).Sound) (hs : ∀ i, s.slot i = .free)
    (he : ∀ e, (s.engine e).ctx = none) (hq : s.queued = []) : s.Vouches ∅ := by
  have idle {e : EngineId} {c : Ctx} (hc : (s.engine e).ctx = some c) : False := by simp [he] at hc
  have running : s.running = [] := List.eq_nil_iff_forall_not_mem.mpr fun j hj => by
    obtain ⟨e, c, hc, _⟩ := State.mem_running.mp hj
    exact idle hc
  refine ⟨?_, hp, fun e c hc => (idle hc).elim, fun i r hr => ?_, fun e c hc => (idle hc).elim⟩
  · rw [hq, running]
    exact ⟨Nat.zero_le _, List.nodup_nil, List.nodup_nil, urgentFirst_iff.mp rfl⟩
  · simp [hs] at hr

theorem hardReset (s : State) : s.hardReset.Vouches ∅ := by
  obtain ⟨_, _, _, _, _, _, _, vouched, _⟩ := invariantsAtReset
  exact (State.vouched_iff.mp vouched).frame rfl rfl rfl rfl rfl

theorem softReset (s : State) (alert : Bool) : (s.softReset alert).Vouches ∅ := by
  refine of_empty (fun p => ?_) (fun i => Table.get_fill _ i) (fun e => ?_) rfl
  · rw [show (s.softReset alert).port p = (s.port p).softReset from Table.get_map _ _ _]
    exact Port.sound_softReset _
  · rw [show (s.softReset alert).engine e = Engine.reset from Table.get_fill _ _]
    rfl

/-! ### Register writes -/

theorem ite {c : Prop} [Decidable c] {a b : State} (ha : a.Vouches ∅) (hb : b.Vouches ∅) :
    (if c then a else b).Vouches ∅ := by
  split_ifs
  · exact ha
  · exact hb

theorem writeTrw (h : s.Vouches ∅) (v : Byte) : (s.writeTrw v).Vouches ∅ :=
  .ite (h.frame rfl rfl rfl rfl rfl) h

theorem writeWindowLimit (h : s.Vouches ∅) (v : Byte) : (s.writeWindowLimit v).Vouches ∅ :=
  .ite (h.frame rfl rfl rfl rfl rfl) h

theorem writeSpaceAny (h : s.Vouches ∅) (v : Byte) : (s.writeSpaceAny v).Vouches ∅ :=
  .ite (h.frame rfl rfl rfl rfl rfl) h

theorem writeSpaceGroup (h : s.Vouches ∅) (v : Byte) : (s.writeSpaceGroup v).Vouches ∅ :=
  .ite (h.frame rfl rfl rfl rfl rfl) h

theorem writeTrialTimeout (h : s.Vouches ∅) (v : Byte) : (s.writeTrialTimeout v).Vouches ∅ :=
  .ite (h.frame rfl rfl rfl rfl rfl) h

theorem writeFreshTime (h : s.Vouches ∅) (v : Byte) : (s.writeFreshTime v).Vouches ∅ :=
  .ite (h.frame rfl rfl rfl rfl rfl) h

theorem writeBudgetByte (h : s.Vouches ∅) (off : Nat) (v : Byte) : (s.writeBudgetByte off v).Vouches ∅ :=
  .ite (h.writeDriftBudget _ v) <| .ite (h.setBudget_ageHeld _ _) <| .ite (h.writeAgeLimit _ v) <|
    h.writeTrimLimit _ v

theorem writePatternByte (h : s.Vouches ∅) (off : Nat) (v : Byte) : (s.writePatternByte off v).Vouches ∅ :=
  .ite (h.frame rfl rfl rfl rfl rfl) (h.frame rfl rfl rfl rfl rfl)

theorem writeErrorPolicy (h : s.Vouches ∅) (p : PortId) (v : Byte) : (s.writeErrorPolicy p v).Vouches ∅ :=
  h.stays p (.settings _ _ _) rfl

theorem writeAutotrain (h : s.Vouches ∅) (p : PortId) (v : Byte) : (s.writeAutotrain p v).Vouches ∅ := by
  have set : (s.modPort p fun x => { x with autotrain := v.getLsbD 0 }).Vouches ∅ :=
    h.stays p (.settings _ _ _) rfl
  exact .ite (set.rescanAfter 1) set

theorem writePortByte (h : s.Vouches ∅) (off : Nat) (v : Byte) : (s.writePortByte off v).Vouches ∅ :=
  .ite (h.writeErrorPolicy _ v) <| .ite (h.writeAutotrain _ v) h

theorem writeCtrl (h : s.Vouches ∅) (v : Byte) : (s.writeCtrl v).Vouches ∅ :=
  .ite (softReset s _) (h.frame rfl rfl rfl rfl rfl)

theorem writeByte (h : s.Vouches ∅) (a : Nat) (v : Byte) : (s.writeByte a v).Vouches ∅ :=
  .ite (h.writeCtrl v) <| .ite (h.frame rfl rfl rfl rfl rfl) <| .ite (h.frame rfl rfl rfl rfl rfl) <|
  .ite (h.startCommand v) <| .ite (h.setMailbox _) <| .ite (h.setMailbox _) <| .ite (h.setMailbox _) <|
  .ite (h.writeTrw v) <| .ite (h.writeWindowLimit v) <| .ite (h.writeSpaceAny v) <|
  .ite (h.writeSpaceGroup v) <| .ite (h.writeTrialTimeout v) <| .ite (h.writeFreshTime v) <|
  .ite (h.writeBudgetByte _ v) <| .ite (h.writePatternByte _ v) <| .ite (h.writePortByte _ v) <|
  .ite (h.setMailbox _) h

theorem departStart (h : s.Vouches ∅) : s.departStart.Vouches ∅ := by
  unfold State.departStart
  split
  · exact h
  · exact h.frame rfl rfl rfl rfl rfl

theorem expireSpaceAny (h : s.Vouches ∅) : s.expireSpaceAny.Vouches ∅ := by
  unfold State.expireSpaceAny
  split
  · exact h
  · exact h.frame rfl rfl rfl rfl rfl

theorem expireSpaceGroup (h : s.Vouches ∅) (g : GroupId) : (s.expireSpaceGroup g).Vouches ∅ := by
  unfold State.expireSpaceGroup
  split
  · exact h
  · exact h.frame rfl rfl rfl rfl rfl

theorem startByteReceived (h : s.Vouches ∅) (p : PortId) (hr : (s.port p).rx = .hunting) :
    (s.modPort p fun x => { x with rx := .inFrame [] }).Vouches ∅ := by
  refine h.stays p (.receives (fun ho => ?_) nofun) rfl
  obtain ⟨_, _, _, _, _, hrx, _⟩ := h.ports p
  simp [hrx.mpr ho] at hr

end State.Vouches

/-! ### Every command -/

theorem exec_vouches (i : Instr) (s t : State) (hex : exec i s = .next t) (h : s.Vouches ∅) :
    t.Vouches ∅ := by
  cases i <;> obtain rfl := Host.Outcome.next.inj hex
  case hardwareReset => exact .hardReset s
  case softReset => exact .softReset _ _
  case alertEnableWrite => exact h.settle.frame rfl rfl rfl rfl rfl
  case eventsWrite => exact h.settle.frame rfl rfl rfl rfl rfl
  case eventEnWrite => exact h.settle.frame rfl rfl rfl rfl rfl
  case registerWrite => exact h.settle.writeByte _ _
  case trwWrite => exact h.settle.writeTrw _
  case windowLimitWrite => exact h.settle.writeWindowLimit _
  case spaceAnyWrite => exact h.settle.writeSpaceAny _
  case spaceGroupWrite => exact h.settle.writeSpaceGroup _
  case trialTimeoutWrite => exact h.settle.writeTrialTimeout _
  case freshTimeWrite => exact h.settle.writeFreshTime _
  case driftBudgetWrite => exact h.settle.writeDriftBudget _ _
  case ageLimitWrite => exact h.settle.writeAgeLimit _ _
  case trimLimitWrite => exact h.settle.writeTrimLimit _ _
  case errorPolicyWrite => exact h.settle.writeErrorPolicy _ _
  case autotrainWrite => exact h.settle.writeAutotrain _ _
  case patternWordWrite => exact h.settle.frame rfl rfl rfl rfl rfl
  case commandStart => exact h.settle.startCommand _
  case readRecord => exact h.onGrantKey _ fun _ c k ht => ht.carryReadRecord c k
  case preloadRecord => exact h.onGrantKey _ fun _ c k ht => ht.carryPreload c k
  case retireRecord => exact h.onGrantKey _ fun _ c k ht => ht.carryRetireRecord c k
  case pin => exact h.onGrantKey _ fun _ _ k ht => ht.carryPin k true
  case unpin => exact h.onGrantKey _ fun _ _ k ht => ht.carryPin k false
  case queueTraining => exact h.onGrantKey _ fun _ c k ht => ht.carryQueueTraining c k
  case cancelTraining => exact h.onCommand _ h.carryCancelTraining
  case enablePort => exact h.onCommand _ h.carryEnablePort
  case disablePort => exact h.onCommand _ h.carryDisablePort
  case clearHold => exact h.onCommand _ h.carryClearHold
  case setProfile => exact h.onGrantKey _ fun _ c k ht => ht.carrySetProfile c k
  case getProfile => exact h.onCommand _ h.carryGetProfile
  case listRecords =>
    rcases s.onGrant_cases 0x0D State.carryListRecords with e | ⟨c, _, e⟩
    · rwa [e]
    · exact e ▸ (h.granted _).endWithBuffer _
  case listQueue => exact h.onCommand _ fun _ => h.endWithBuffer _
  case hello => exact h.takeFrame _ _ _ fun _ hf hs => hf.takeHello _ _ _ hs
  case temp => exact h.takeFrame _ _ _ fun _ hf _ => hf.takeTemp _ _
  case autoRequest => exact h.takeAutoRequest
  case lookup => exact h.takeFrame _ _ _ fun _ hf hs => hf.takeRequest _ _ _ hs
  case applied => exact h.takeFrame _ _ _ fun _ hf hs => hf.takeRequest _ _ _ hs
  case trim => exact h.takeFrame _ _ _ fun _ hf hs => hf.takeRequest _ _ _ hs
  case train => exact h.takeFrame _ _ _ fun _ hf hs => hf.takeRequest _ _ _ hs
  case retire => exact h.takeFrame _ _ _ fun _ hf hs => hf.takeRequest _ _ _ hs
  case park => exact h.takeFrame _ _ _ fun _ hf hs => hf.takeRequest _ _ _ hs
  case wake => exact h.takeFrame _ _ _ fun _ hf hs => hf.takeWake _ _ hs
  case resync => exact h.takeResync _ _ _
  case ready => exact h.takeFrame _ _ _ fun _ hf _ => hf.takeReady _ _
  case result =>
    refine h.takeFrame _ _ _ fun a hf _ => ?_
    cases a with
    | some x => exact hf.takeResult _ _ _
    | none => exact hf
  case badFrame => exact .ite (h.takeBad _) h
  case lookupService =>
    exact h.serve _ _ fun t tag c ht hs => ht.ifEnabled tag hs (ht.serveLookup _ tag hs)
  case appliedService =>
    exact h.serve _ _ fun t tag a ht hs => ht.ifEnabled tag hs (ht.serveApplied _ tag _ hs)
  case trimService =>
    exact h.serve _ _ fun t tag a ht hs => ht.ifEnabled tag hs (ht.serveTrim _ tag _ _ hs)
  case retireService =>
    exact h.serve _ _ fun t tag c ht hs => ht.ifEnabled tag hs (ht.serveRetire _ tag hs)
  case trainService =>
    exact h.serve _ _ fun t tag a ht hs => ht.ifEnabled tag hs (ht.serveTrain _ tag _ hs)
  case parkService => exact h.serve _ _ fun t tag _ ht hs => ht.servePark _ tag hs
  case frameSent => exact h.frameSent _
  case deferredFramePlacement => exact h.stays _ .placeHeld (Port.placeHeld_temp _)
  case freshnessExpiry => exact h.expireFreshness _
  case ageTimerExpiry => exact h.expireAge _
  case trialTimerExpiry => exact h.expireTrial _
  case temperatureMovementTest => exact h.takeTest _
  case startListDeparture => exact h.departStart
  case spaceAnyExpiry => exact h.expireSpaceAny
  case spaceGroupExpiry => exact h.expireSpaceGroup _
  case startDecision => exact h.decideStart
  case rescan => exact h.rescan
  case reservation =>
    refine h.onRequest _ fun c q hc hq => ?_
    split_ifs with hr
    · exact h.reserve hc (hr ▸ hq)
    · exact h
  case commit =>
    refine h.onRequest _ fun c q hc _ => ?_
    split_ifs with hr
    · exact h.commit hc hr.2
    · exact h
  case noEye => exact h.onRequest _ fun c _ hc _ => .ite (h.endFailed hc _) h
  case failureOperation =>
    refine h.onRequest _ fun c q hc _ => ?_
    cases q with
    | failure o => exact h.endFailed hc o
    | reserve => exact h
    | commit => exact h
    | noEye => exact h
  case unknownKindFrame => exact .ite h (h.takeFrame _ _ _ fun _ hf _ => hf)
  case startByteReceived =>
    split_ifs with hr
    · exact h.startByteReceived _ hr
    · exact h

/-- Settles O59: the parts of what vouches for CURRENT records, kept together by every command. -/
theorem stepsKeepCurrentFit : Obligations.StepsKeepCurrentFit := by
  intro s t hstep h
  rw [State.vouched_iff] at h ⊢
  rcases step_cases hstep with rfl | ⟨c, rest, _, hex⟩
  · exact h.tick
  · have popped : State.Vouches ∅ { s with pending := rest } := h.frame rfl rfl rfl rfl rfl
    exact exec_vouches c _ t hex popped

end Sys2Proof.Machine
end

section
/-! PROOF. Register writes without a check of range, the mailbox commands that wait for nothing, and those
that wait for a grant: O11, O13 and O15. -/

namespace Sys2Proof.Machine

/-! ### Settings and Pattern Table words (R69, R126, R166) -/

/-- The byte a number leaves of a word is the word's low byte. -/
theorem toByte_toNat (w : Word) : toByte w.toNat = w.extractLsb' 0 8 := by
  simp [toByte, BitVec.extractLsb']

/-- The word two bytes spell, low byte first (R189). -/
theorem ofNat_fromLe16 (lo hi : Byte) : BitVec.ofNat 16 (fromLe16 lo hi) = hi ++ lo := by
  rw [fromLe16_eq]
  exact (BitVec.ofNat_toNat _ _).trans (BitVec.setWidth_eq _)

theorem State.writeAutotrain_eq (s : State) (p : PortId) (v : Byte) : s.writeAutotrain p v = { s with
    ports := s.ports.set p { s.port p with autotrain := v.getLsbD 0 }
    rescans := if v.getLsbD 0 then s.rescans + 1 else s.rescans } := by
  rw [State.writeAutotrain]
  cases v.getLsbD 0 <;> rfl

/-- A Pattern Table word written, over the low byte held or the present one (R126, R171). -/
theorem State.writePattern_eq (s : State) (w : PatternId) (high : Byte) :
    s.writePattern w high = { s with
      patterns := s.patterns.set w
        (high ++ (s.patternHeld.get w).getD ((s.patterns.get w).extractLsb' 0 8))
      patternHeld := s.patternHeld.set w none } := by
  rw [State.writePattern, ofNat_fromLe16, toByte_toNat]

/-- Settles O11: each write as its definition says, on the settled state. -/
theorem settingWrites : Obligations.SettingWrites := by
  intro p w v s
  have word : exec (.patternWordWrite w v) s = .next (s.settle.writePattern w v) := rfl
  rw [word, State.writePattern_eq]
  exact ⟨rfl, congrArg _ (State.writeAutotrain_eq _ p v), fun low h => by rw [h, Option.getD_some],
    fun h => by rw [h, Option.getD_none]⟩

/-! ### The port and the key a command names -/

theorem toPort_of_val {b : Byte} {p : PortId} (h : b.toNat = p.val) : toPort b = some p := by
  rw [toPort, dif_pos (h ▸ p.isLt)]
  exact congrArg some (Fin.ext h)

theorem CmdCopy.key_of_lt {c : CmdCopy} (h : c.port.toNat < 8 ∧ c.cls.toNat < 4) :
    c.key = some ⟨⟨c.port.toNat, h.1⟩, ⟨c.cls.toNat, h.2⟩⟩ := by
  simp only [CmdCopy.key, toPort, toClass, dif_pos h.1, dif_pos h.2]

theorem CmdCopy.key_of_not_lt {c : CmdCopy} (h : ¬(c.port.toNat < 8 ∧ c.cls.toNat < 4)) :
    c.key = none := by
  by_cases hp : c.port.toNat < 8
  · have hc : ¬c.cls.toNat < 4 := fun hc => h ⟨hp, hc⟩
    simp only [CmdCopy.key, toClass, dif_neg hc]
    cases toPort c.port <;> rfl
  · simp only [CmdCopy.key, toPort, dif_neg hp]

/-! ### Commands carried out without a grant (R174) -/

section
variable {s : State} {c : CmdCopy} {code : Byte} {f : State → CmdCopy → State}

theorem State.onCommand_of_idle (h : s.mb.copy = none) : s.onCommand code f = s := by
  simp only [State.onCommand, h]

theorem State.onCommand_of_code (h : s.mb.copy = some c) (hc : c.code = code) :
    s.onCommand code f = f s c := by
  simp only [State.onCommand, h, hc, if_true]

theorem State.onCommand_of_other (h : s.mb.copy = some c) (hc : c.code ≠ code) :
    s.onCommand code f = s := by
  simp only [State.onCommand, h, hc, if_false]

theorem State.settle_of_idle (h : s.mb.copy = none) : s.settle = s := by
  simp only [State.settle, h]

/-- What settling does with a command standing, by its code (R174, log 7). -/
theorem State.settle_of_copy (h : s.mb.copy = some c) : s.settle =
    if c.code = 0x08 then s.carryEnablePort c
    else if c.code = 0x0A then s.carryClearHold c
    else if c.code = 0x0C then s.carryGetProfile c
    else if c.code = 0x0E then s.carryListQueue c
    else s := by
  simp only [State.settle, h]

end

section
variable {s : State} {c : CmdCopy} {p : PortId}

theorem State.carryEnablePort_of_port (h : c.port.toNat = p.val) : s.carryEnablePort c =
    if (s.port p).state = .offline then
      State.endCommand { s with
        ports := s.ports.set p { s.port p with
          state := .syncing, rx := .hunting, char := none, bad := 0, temp := .unknown }
        slots := s.slots.map (Slot.mapRecord (Record.onTempLost p false)), decision := true } .done
    else s.endCommand .wrongState := by
  simp only [State.carryEnablePort, toPort_of_val h, State.enterSyncing_eq, State.leave_modPort,
    State.port_modPort_self]
  rfl

theorem State.carryClearHold_of_port (h : c.port.toNat = p.val) : s.carryClearHold c =
    if (s.port p).state = .held then
      State.endCommand { s with
        ports := s.ports.set p { s.port p with state := .syncing, bad := 0, temp := .unknown }
        slots := s.slots.map (Slot.mapRecord (Record.onTempLost p false)), decision := true } .done
    else s.endCommand .wrongState := by
  simp only [State.carryClearHold, toPort_of_val h, State.enterSyncing_eq]
  rfl

theorem State.carryGetProfile_eq (s : State) (c : CmdCopy) : s.carryGetProfile c =
    if h : c.port.toNat < 8 ∧ c.cls.toNat < 4 then
      s.endWithBuffer (s.profile ⟨⟨c.port.toNat, h.1⟩, ⟨c.cls.toNat, h.2⟩⟩).bytes
    else s.endCommand .badValue := by
  split_ifs with h
  · simp only [State.carryGetProfile, CmdCopy.key_of_lt h]
  · simp only [State.carryGetProfile, CmdCopy.key_of_not_lt h]

end

/-- Settles O13: a command standing is carried out where its code is the command's, and settling carries
out the same. -/
theorem immediateCommands : Obligations.ImmediateCommands := by
  refine ⟨fun s h => ⟨State.settle_of_idle h, ?_, ?_, ?_, ?_⟩, fun s c h => ?_⟩
  iterate 4 exact congrArg _ (State.onCommand_of_idle h)
  have settled := State.settle_of_copy h
  refine ⟨fun hc => ?_, fun hc => ?_, fun hc => ?_, fun hc => ?_, ?_, fun p hp => ⟨fun hc => ?_, fun hc => ?_⟩,
    fun hc => ?_, fun hc => ?_⟩
  iterate 4 exact congrArg _ (State.onCommand_of_other h hc)
  · rintro ⟨h8, hA, hC, hE⟩
    rw [settled, if_neg h8, if_neg hA, if_neg hC, if_neg hE]
  · have carried : s.settle = s.carryEnablePort c := by rw [settled, if_pos hc]
    exact ⟨congrArg _ ((State.onCommand_of_code h hc).trans carried.symm),
      carried.trans (State.carryEnablePort_of_port hp)⟩
  · have carried : s.settle = s.carryClearHold c := by simp [settled, hc]
    exact ⟨congrArg _ ((State.onCommand_of_code h hc).trans carried.symm),
      carried.trans (State.carryClearHold_of_port hp)⟩
  · have carried : s.settle = s.carryGetProfile c := by simp [settled, hc]
    exact ⟨congrArg _ ((State.onCommand_of_code h hc).trans carried.symm),
      carried.trans (State.carryGetProfile_eq s c)⟩
  · have carried : s.settle = s.carryListQueue c := by simp [settled, hc]
    refine ⟨congrArg _ ((State.onCommand_of_code h hc).trans carried.symm), carried.trans ?_⟩
    rw [← State.entriesHeld_eq]
    rfl

/-! ### Commands that wait for a grant (R76, R174) -/

section
variable {s : State} {c : CmdCopy} {code : Byte}

theorem State.onGrant_of_not_due {f : State → CmdCopy → State} (h : ¬∃ c, s.CommandDue c code) :
    s.onGrant code f = s :=
  (s.onGrant_cases code f).resolve_right fun ⟨c, hc, _⟩ => h ⟨c, hc⟩

theorem State.onGrantKey_of_no_key {f : State → CmdCopy → Key → State} (h : s.CommandDue c code)
    (hk : c.key = none) : s.onGrantKey code f = State.endCommand { s with arb := 0 } .badValue := by
  rw [State.onGrantKey, State.onGrant_of_due h, hk]

end

/-- Each command that needs the store, LIST_RECORDS excepted, checks its key at the grant. -/
theorem exec_storeCommand {i : Instr} {code : Byte} (h : (i, code) ∈ [(Instr.readRecord, 0x01#8),
      (.preloadRecord, 0x02), (.retireRecord, 0x03), (.pin, 0x04), (.unpin, 0x05), (.queueTraining, 0x06),
      (.setProfile, 0x0B), (.listRecords, 0x0D)]) :
    (∃ f, ∀ s, exec i s = .next (s.onGrantKey code f)) ∨
      (i = .listRecords ∧ ∃ f, ∀ s, exec i s = .next (s.onGrant code f)) := by
  simp only [List.mem_cons, Prod.mk.injEq, List.not_mem_nil, or_false] at h
  rcases h with ⟨rfl, rfl⟩ | ⟨rfl, rfl⟩ | ⟨rfl, rfl⟩ | ⟨rfl, rfl⟩ | ⟨rfl, rfl⟩ | ⟨rfl, rfl⟩ | ⟨rfl, rfl⟩ |
    ⟨rfl, rfl⟩
  iterate 7 exact .inl ⟨_, fun _ => rfl⟩
  exact .inr ⟨rfl, _, fun _ => rfl⟩

/-- Settles O15: no grant, nothing done; at the grant a key out of range ends the command. -/
theorem storeCommandsWait : Obligations.StoreCommandsWait := by
  intro i code hi
  rcases exec_storeCommand hi with ⟨f, hf⟩ | ⟨rfl, f, hf⟩
  · refine ⟨fun s hs => (hf s).trans (congrArg _ (State.onGrant_of_not_due hs)), fun s c hdue _ hv => ?_⟩
    have noKey : c.key = none := CmdCopy.key_of_not_lt (by omega)
    exact (hf s).trans (congrArg _ (State.onGrantKey_of_no_key hdue noKey))
  · exact ⟨fun s hs => (hf s).trans (congrArg _ (State.onGrant_of_not_due hs)),
      fun _ _ _ hne => absurd rfl hne⟩

end Sys2Proof.Machine
end

section
/-! PROOF. DISABLE_PORT: O14. -/

namespace Sys2Proof.Machine

/-! ### One running job for each port (R111) -/

theorem State.running_perm_setCtx {s : State} {e : EngineId} {c : Ctx} (hc : (s.engine e).ctx = some c) :
    s.running.Perm (c.job :: (s.setCtx e none).running) :=
  State.running_perm_of_idle hc (by simp [State.setCtx]) fun d hd => by
    simp [State.setCtx, State.engine_modEngine, hd.symm]

namespace State.QueueSound
variable {s : State} {e : EngineId} {c : Ctx}

/-- No other job runs for the port of a running one. -/
theorem others_apart (hq : s.QueueSound) (hc : (s.engine e).ctx = some c) :
    ∀ j ∈ (s.setCtx e none).running, j.key.port ≠ c.job.key.port := by
  have sound := (s.queueSound_iff.mp hq).perm_running (State.running_perm_setCtx hc)
  exact fun j hj hp => (List.nodup_cons.mp sound.portsApart).1 (List.mem_map.mpr ⟨j, hj, hp⟩)

theorem engine_of_port (hq : s.QueueSound) (hc : (s.engine e).ctx = some c) {d : EngineId} {x : Ctx}
    (hx : (s.engine d).ctx = some x) (hp : x.job.key.port = c.job.key.port) : d = e := by
  by_contra hne
  refine hq.others_apart hc x.job (State.mem_running.mpr ⟨d, x, ?_, rfl⟩) hp
  simp [State.setCtx, State.engine_modEngine, Ne.symm hne, hx]

theorem countP_running (hq : s.QueueSound) (hc : (s.engine e).ctx = some c) :
    (s.running.countP fun j => j.key.port == c.job.key.port) = 1 := by
  have none : ((s.setCtx e none).running.countP fun j => j.key.port == c.job.key.port) = 0 :=
    List.countP_eq_zero.mpr fun j hj => by simpa using hq.others_apart hc j hj
  rw [(State.running_perm_setCtx hc).countP_eq, List.countP_cons, none]
  simp

/-- A running job's key is the one of its port that runs. -/
theorem key_of_port (hq : s.QueueSound) (hc : (s.engine e).ctx = some c) {k : Key} :
    k.port = c.job.key.port ∧ k ∈ s.running.map Job.key ↔ k = c.job.key := by
  constructor
  · rintro ⟨hp, hk⟩
    obtain ⟨j, hj, rfl⟩ := List.mem_map.mp hk
    rcases List.mem_cons.mp ((State.running_perm_setCtx hc).mem_iff.mp hj) with rfl | hj
    · rfl
    · exact absurd hp (hq.others_apart hc j hj)
  · rintro rfl
    exact ⟨rfl, List.mem_map.mpr ⟨c.job, State.mem_running.mpr ⟨e, c, hc, rfl⟩, rfl⟩⟩

end State.QueueSound

/-! ### Every job of a port removed (R108, R142) -/

/-- The jobs of port `p` removed from `s` leave `t`: no END, the reservation released, and one rescan for
each entry freed. -/
def State.PortJobsRemoved (s t : State) (p : PortId) : Prop :=
  (t = { s with
    slots := t.slots, free := t.free, engines := t.engines
    queued := s.queued.filter fun j => j.key.port != p
    rescans := s.rescans + (s.queued.countP fun j => j.key.port == p) +
      (s.running.countP fun j => j.key.port == p) }) ∧
  (∀ e, t.engine e = { s.engine e with
    ctx := (s.engine e).ctx.filter fun x => x.job.key.port != p }) ∧
  (∀ i, t.slot i = match s.slot i with
    | .reserved k n => if k.port = p ∧ k ∈ s.running.map Job.key then .free else .reserved k n
    | x => x) ∧
  t.free + (t.slots.rows.map Slot.lanes).sum = s.free + (s.slots.rows.map Slot.lanes).sum

theorem State.dequeuePort_eq (s : State) (p : PortId) : s.dequeuePort p = { s with
    queued := s.queued.filter fun j => j.key.port != p
    rescans := s.rescans + s.queued.countP fun j => j.key.port == p } := by
  have freed : s.queued.length - (s.queued.filter fun j => j.key.port != p).length =
      s.queued.countP fun j => j.key.port == p := by
    rw [List.countP_eq_length_filter]
    exact Nat.sub_eq_of_eq_add (List.length_eq_length_filter_add fun j : Job => j.key.port == p)
  rw [State.dequeuePort, freed]
  rfl

theorem State.ctx_filter_of_ne {s : State} {e : EngineId} {p : PortId}
    (h : ∀ c, (s.engine e).ctx = some c → c.job.key.port ≠ p) :
    (s.engine e).ctx.filter (fun x => x.job.key.port != p) = (s.engine e).ctx := by
  cases hc : (s.engine e).ctx with
  | none => rfl
  | some c => simp [h c hc]

/-- A port without a running job frees its queue entries alone. -/
theorem State.portJobsRemoved_of_idle {s : State} {p : PortId}
    (h : ∀ e c, (s.engine e).ctx = some c → c.job.key.port ≠ p) :
    s.PortJobsRemoved (s.dequeuePort p) p := by
  have none : ∀ j ∈ s.running, j.key.port ≠ p := fun j hj => by
    obtain ⟨e, c, hc, rfl⟩ := State.mem_running.mp hj
    exact h e c hc
  have count : (s.running.countP fun j => j.key.port == p) = 0 :=
    List.countP_eq_zero.mpr fun j hj => by simpa using none j hj
  rw [State.dequeuePort_eq]
  refine ⟨by rw [count]; rfl, fun e => ?_, fun i => ?_, rfl⟩
  · have kept : (s.engine e).ctx.filter (fun x => x.job.key.port != p) = (s.engine e).ctx :=
      State.ctx_filter_of_ne fun c hc => h e c hc
    rw [kept]
    rfl
  · change s.slot i = _
    cases s.slot i with
    | free => rfl
    | occupied r => rfl
    | reserved k n =>
      refine (if_neg ?_).symm
      rintro ⟨hp, hk⟩
      obtain ⟨j, hj, rfl⟩ := List.mem_map.mp hk
      exact none j hj hp

/-- The end of a run that has no frame listed to withdraw (R141). -/
theorem State.endRun_of_withdrawn {s : State} {e : EngineId} {k : Key} (h1 : s.OneSlotPerKey)
    (hw : (s.port k.port).withdraw = s.port k.port) : s.endRun e k = { s with
      slots := (s.endRun e k).slots, free := (s.endRun e k).free
      engines := s.engines.set e { s.engine e with ctx := none } } := by
  obtain ⟨slots, free, heq, _⟩ := s.endRun_spec e k h1
  rw [hw, show s.ports.set k.port (s.port k.port) = s.ports from Table.set_get _ _] at heq
  rw [heq]

/-- A port's running job ends without END, where the port has no frame left to withdraw (R142). -/
theorem State.portJobsRemoved_of_running {s : State} {e : EngineId} {c : Ctx} (hq : s.QueueSound)
    (h1 : s.OneSlotPerKey) (hc : (s.engine e).ctx = some c)
    (hw : (s.port c.job.key.port).withdraw = s.port c.job.key.port) :
    s.PortJobsRemoved (((s.dequeuePort c.job.key.port).endRun e c.job.key).rescanAfter 1)
      c.job.key.port := by
  have heq := State.endRun_of_withdrawn (s := s.dequeuePort c.job.key.port) (e := e) h1 hw
  obtain ⟨_, _, _, hengines, hslots, hfree⟩ :=
    (s.dequeuePort c.job.key.port).endRun_spec e c.job.key h1
  generalize (s.dequeuePort c.job.key.port).endRun e c.job.key = t at heq hengines hslots hfree
  rw [State.dequeuePort_eq] at heq
  refine ⟨?_, fun d => ?_, fun i => ?_, hfree⟩
  · rw [hq.countP_running hc, State.rescanAfter, heq]
  · have row : t.engine d = if e = d then { s.engine e with ctx := none } else s.engine d :=
      (congrArg (Table.get · d) hengines).trans (Table.get_set _ _ _ _)
    refine row.trans ?_
    split_ifs with hd
    · have gone : (some c).filter (fun x => x.job.key.port != c.job.key.port) = none := by
        simp [Option.filter]
      rw [← hd, hc, gone]
    · rw [State.ctx_filter_of_ne fun x hx hp => hd (hq.engine_of_port hc hx hp).symm]
  · refine (hslots i).trans ?_
    change (match s.slot i with
      | .reserved k' n => if k' = c.job.key then Slot.free else .reserved k' n
      | x => x) = _
    cases s.slot i with
    | free => rfl
    | occupied r => rfl
    | reserved k n => exact if_congr (hq.key_of_port hc).symm rfl rfl

theorem State.removePortJobs_spec {s : State} {p : PortId} (hq : s.QueueSound) (h1 : s.OneSlotPerKey)
    (hw : (s.port p).withdraw = s.port p) : s.PortJobsRemoved (s.removePortJobs p) p := by
  cases hr : (s.dequeuePort p).runningPort p with
  | none =>
    rw [State.removePortJobs_of_none hr]
    refine State.portJobsRemoved_of_idle fun e c hc => ?_
    simpa using State.runningWhere_eq_none.mp hr e c hc
  | some x =>
    obtain ⟨e, c⟩ := x
    rw [State.removePortJobs_of_some hr]
    obtain ⟨hc, rfl⟩ := State.runningPort_eq_some hr
    exact State.portJobsRemoved_of_running hq h1 hc hw

/-! ### DISABLE_PORT (R66, R182) -/

theorem State.carryDisablePort_of_port {s : State} {c : CmdCopy} {p : PortId}
    (h : c.port.toNat = p.val) : s.carryDisablePort c =
      if (s.port p).state = .offline then s.endCommand .wrongState
      else (s.disable p).endCommand .done := by
  simp only [State.carryDisablePort, toPort_of_val h]

/-- A disabled port has no frame to withdraw. -/
theorem Port.withdraw_disabled (x : Port) : x.disabled.withdraw = x.disabled := rfl

/-- The lane entries the slots hold are those before a port lost its temperature. -/
theorem State.lanes_leave (s : State) (p : PortId) (y : Port) (clear : Bool) :
    (s.leave p y clear).slots.rows.map Slot.lanes = s.slots.rows.map Slot.lanes := by
  rw [State.leave, Table.rows_map, List.map_map]
  refine List.map_congr_left fun x _ => ?_
  cases x with
  | free => rfl
  | reserved k n => rfl
  | occupied r =>
    change (r.onTempLost p clear).laneCount = r.laneCount
    rw [Record.onTempLost]
    split_ifs <;> rfl

/-- Settles O14: the port left for OFFLINE, then its jobs removed. -/
theorem disablePort : Obligations.DisablePort := by
  intro s c p hq h1 hc hcode hp
  have carried : exec .disablePort s = .next (s.carryDisablePort c) :=
    congrArg _ (State.onCommand_of_code hc hcode)
  rw [carried, State.carryDisablePort_of_port hp]
  refine ⟨fun h => by rw [if_pos h], fun h => ?_⟩
  rw [if_neg h, State.disable_eq]
  refine ⟨_, _, rfl, rfl, ?_⟩
  generalize hv : ({ s.leave p (s.port p).disabled true with
    autoReqs := s.autoReqs.filter fun k => k.port != p } : State) = v
  have one : v.OneSlotPerKey := by
    subst hv
    exact ((State.KeepsStore.refl s).loseTemp p true).keys h1
  have withdrawn : (v.port p).withdraw = v.port p := by
    have port : v.port p = (s.port p).disabled := hv ▸ Table.get_set_self _ _ _
    rw [port, Port.withdraw_disabled]
  have queue : v.QueueSound := hv ▸ hq
  obtain ⟨heq, hengine, hslot, hfree⟩ := State.removePortJobs_spec queue one withdrawn
  generalize v.removePortJobs p = u at heq hengine hslot hfree
  subst hv
  refine ⟨?_, ?_, hengine, fun i => ?_, ?_⟩
  · rw [heq]
    rfl
  · rw [heq]
    rfl
  · refine (hslot i).trans ?_
    have lost : ∀ a : List Key, State.slot { s.leave p (s.port p).disabled true with autoReqs := a } i =
        (s.slot i).mapRecord (Record.onTempLost p true) := fun _ => Table.get_map ..
    rw [lost]
    cases s.slot i with
    | free => rfl
    | reserved k n => rfl
    | occupied r => rfl
  · refine hfree.trans ?_
    exact congrArg (fun l => s.free + List.sum l) (s.lanes_leave p (s.port p).disabled true)

end Sys2Proof.Machine
end

section
/-! PROOF. Good frames: how each kind is taken, and which payloads are MALFORMED (O26, O29). -/

namespace Sys2Proof.Machine

/-! ### The fields of a payload (R54, R189, R190) -/

theorem toClass_of_four_le {b : Byte} (h : 4 ≤ b.toNat) : toClass b = none :=
  dif_neg (Nat.not_lt.mpr h)

theorem toClass_ofNat (c : ClassId) : toClass (BitVec.ofNat 8 c.val) = some c := by
  have value : (BitVec.ofNat 8 c.val).toNat = c.val := by
    rw [BitVec.toNat_ofNat]
    omega
  have small : (BitVec.ofNat 8 c.val).toNat < 4 := by
    rw [value]
    exact c.isLt
  rw [toClass, dif_pos small]
  exact congrArg some (Fin.ext value)

theorem parseByte_of_length {payload : List Byte} (h : payload.length ≠ 1) : parseByte payload = none := by
  match payload with
  | [] => rfl
  | [_] => exact absurd rfl h
  | _ :: _ :: _ => rfl

theorem parseClass_of_length {payload : List Byte} (h : payload.length ≠ 1) :
    parseClass payload = none := by
  match payload with
  | [] => rfl
  | [_] => exact absurd rfl h
  | _ :: _ :: _ => rfl

theorem parseTemp_of_length {payload : List Byte} (h : payload.length ≠ 2) : parseTemp payload = none := by
  match payload with
  | [] => rfl
  | [_] => rfl
  | [_, _] => exact absurd rfl h
  | _ :: _ :: _ :: _ => rfl

theorem parseTrain_of_length {payload : List Byte} (h : payload.length ≠ 2) :
    parseTrain payload = none := by
  match payload with
  | [] => rfl
  | [_] => rfl
  | [_, _] => exact absurd rfl h
  | _ :: _ :: _ :: _ => rfl

theorem parseApplied_of_length {payload : List Byte} (h : payload.length ≠ 3) :
    parseApplied payload = none := by
  match payload with
  | [] => rfl
  | [_] => rfl
  | [_, _] => rfl
  | [_, _, _] => exact absurd rfl h
  | _ :: _ :: _ :: _ :: _ => rfl

theorem parseTrim_of_length {lanes : Table 4 Nat} {payload : List Byte} (h : payload.length < 3) :
    parseTrim lanes payload = none := by
  match payload with
  | [] => rfl
  | [_] => rfl
  | [_, _] => rfl
  | _ :: _ :: _ :: ds =>
    simp only [List.length_cons] at h
    omega

theorem parseEmpty_of_ne {payload : List Byte} (h : payload ≠ []) : parseEmpty payload = none := by
  match payload with
  | [] => exact absurd rfl h
  | _ :: _ => rfl

theorem parseResult_of_length {lanes : Nat} {payload : List Byte} (h : payload.length ≠ 1 + lanes) :
    parseResult lanes payload = none := by
  match payload with
  | [] => rfl
  | _ :: counts => exact if_neg fun hl => h (by simp only [List.length_cons]; omega)

section
variable {c : Byte} {rest : List Byte} (hc : 4 ≤ c.toNat)
include hc

theorem parseClass_of_class : parseClass (c :: rest) = none := by
  match rest with
  | [] => exact toClass_of_four_le hc
  | _ :: _ => rfl

theorem parseApplied_of_class : parseApplied (c :: rest) = none := by
  match rest with
  | [] => rfl
  | [_] => rfl
  | [_, _] => simp only [parseApplied, toClass_of_four_le hc, Option.map_none]
  | _ :: _ :: _ :: _ => rfl

theorem parseTrain_of_class : parseTrain (c :: rest) = none := by
  match rest with
  | [] => rfl
  | [_] => simp only [parseTrain, toClass_of_four_le hc]
  | _ :: _ :: _ => rfl

theorem parseTrim_of_class {lanes : Table 4 Nat} : parseTrim lanes (c :: rest) = none := by
  match rest with
  | [] => rfl
  | [_] => rfl
  | _ :: _ :: _ => simp only [parseTrim, toClass_of_four_le hc]

end

theorem parseTrain_of_urgency {c u : Byte} (hu : 2 ≤ u.toNat) : parseTrain [c, u] = none := by
  simp only [parseTrain, toUrgency_of_two_le hu]
  cases toClass c <;> rfl

/-- Whether the deltas of a TRIM for a class of `n` lanes are well-formed (R54). -/
def deltasFit (n : Nat) (ds : List Byte) : Prop :=
  if n = 0 then ds.length ≤ 16 else ds.length = n ∧ ∀ d ∈ ds, -3 ≤ d.toInt ∧ d.toInt ≤ 3

theorem parseTrim_of_fit {lanes : Table 4 Nat} {c : ClassId} {ds : List Byte} (g0 g1 : Byte)
    (h : deltasFit (lanes.get c) ds) : parseTrim lanes (BitVec.ofNat 8 c.val :: g0 :: g1 :: ds) =
      some (c, fromLe16 g0 g1, ds.map BitVec.toInt) := by
  simp only [parseTrim, toClass_ofNat]
  exact if_pos (by simpa [deltasFit, validDelta, Config.lanesMax] using h)

theorem parseTrim_of_unfit {lanes : Table 4 Nat} {c : ClassId} {ds : List Byte} (g0 g1 : Byte)
    (h : ¬deltasFit (lanes.get c) ds) : parseTrim lanes (BitVec.ofNat 8 c.val :: g0 :: g1 :: ds) = none := by
  simp only [parseTrim, toClass_ofNat]
  exact if_neg (by simpa [deltasFit, validDelta, Config.lanesMax] using h)

/-! ### How a frame is taken (R51, R54, R57, R63) -/

section
variable {α : Type} {s : State} {p : PortId} {tag : Byte} {parsed : Option α} {act : State → α → State}

theorem State.takeFrame_of_offline (h : (s.port p).state = .offline) :
    s.takeFrame p tag parsed act = s := by
  simp only [State.takeFrame, h]

theorem State.takeFrame_of_held (h : (s.port p).state = .held) :
    s.takeFrame p tag parsed act = s.hunt p := by
  simp only [State.takeFrame, h]

theorem State.takeFrame_of_malformed (ho : (s.port p).state ≠ .offline) (hh : (s.port p).state ≠ .held)
    (hp : parsed = none) : s.takeFrame p tag parsed act = (s.framed p).answerAtOnce p tag .malformed := by
  subst hp
  unfold State.takeFrame State.framed
  cases hs : (s.port p).state with
  | offline => exact absurd hs ho
  | held => exact absurd hs hh
  | syncing => rfl
  | online => rfl
  | parked => rfl

end

/-- The kinds link controllers send (R55, R190). -/
theorem isLinkKind_cases {kind : Byte} (h : isLinkKind kind = true) :
    kind = 0x01 ∨ kind = 0x02 ∨ kind = 0x03 ∨ kind = 0x04 ∨ kind = 0x05 ∨ kind = 0x06 ∨ kind = 0x07 ∨
      kind = 0x08 ∨ kind = 0x09 ∨ kind = 0x0A ∨ kind = 0x0B ∨ kind = 0x0C := by
  simp only [isLinkKind, Bool.and_eq_true, decide_eq_true_eq] at h
  bv_omega

theorem frameCommand_of_unknown {p : PortId} {kind tag : Byte} {payload : List Byte}
    (h : isLinkKind kind = false) : frameCommand p kind tag payload = .unknownKindFrame p kind tag payload := by
  have ne : ∀ k : Byte, isLinkKind k = true → kind ≠ k := fun k hk he => by simp [he, hk] at h
  unfold frameCommand
  iterate 12 refine (if_neg (ne _ (by rfl))).trans ?_
  rfl

/-- A frame of an unknown kind is taken as one whose payload says nothing (R54). -/
theorem exec_frameCommand_unknown (s : State) (p : PortId) (kind tag : Byte) (payload : List Byte)
    (h : isLinkKind kind = false) : exec (frameCommand p kind tag payload) s =
      .next (s.takeFrame p tag (none : Option Unit) fun t _ => t) := by
  rw [frameCommand_of_unknown h]
  exact congrArg Host.Outcome.next (if_neg (by simp [h]))

/-- A RESYNC that does not take its port out of HELD is taken like any other frame (R63). -/
theorem State.takeResync_of_other {s : State} {p : PortId} {tag : Byte} {payload : List Byte}
    (h : ¬((s.port p).state = .held ∧ payload = [])) : s.takeResync p tag payload =
      s.takeFrame p tag (parseEmpty payload) fun t _ => t := if_neg h

/-- Every good frame but such a RESYNC is taken by way of its payload. -/
theorem exec_frameCommand (s : State) (p : PortId) (kind tag : Byte) (payload : List Byte)
    (h : ¬(kind = 0x0C ∧ (s.port p).state = .held ∧ payload = [])) :
    ∃ (α : Type) (parsed : Option α) (act : State → α → State),
      exec (frameCommand p kind tag payload) s = .next (s.takeFrame p tag parsed act) := by
  cases hk : isLinkKind kind with
  | false => exact ⟨_, _, _, exec_frameCommand_unknown s p kind tag payload hk⟩
  | true =>
    rcases isLinkKind_cases hk with rfl | rfl | rfl | rfl | rfl | rfl | rfl | rfl | rfl | rfl | rfl | rfl
    iterate 11 exact ⟨_, _, _, rfl⟩
    exact ⟨_, _, _, congrArg _ (State.takeResync_of_other fun hr => h ⟨rfl, hr⟩)⟩

/-- A MALFORMED frame in SYNCING, ONLINE or PARKED (R54). -/
theorem exec_of_malformed {α : Type} {s : State} {p : PortId} {tag : Byte} {parsed : Option α}
    {act : State → α → State} {i : Instr} (ho : (s.port p).state ≠ .offline)
    (hh : (s.port p).state ≠ .held) (hp : parsed = none)
    (hi : exec i s = .next (s.takeFrame p tag parsed act)) :
    exec i s = .next ((s.framed p).answerAtOnce p tag .malformed) :=
  hi.trans (congrArg _ (State.takeFrame_of_malformed ho hh hp))

theorem State.judgeResult_of_some {s : State} {p : PortId} {payload : List Byte} {e : EngineId} {c : Ctx}
    (h : s.runningPort p = some (e, c)) :
    s.judgeResult p payload = (parseResult c.profile.laneCount payload).map some := by
  simp only [State.judgeResult, h]

theorem State.judgeResult_of_none {s : State} {p : PortId} {payload : List Byte}
    (h : s.runningPort p = none) : s.judgeResult p payload = some none := by
  simp only [State.judgeResult, h]

/-- Settles O26: OFFLINE and HELD by the port's state alone, elsewhere each kind by its payload. -/
theorem frameChecks : Obligations.FrameChecks := by
  intro p kind tag payload s malformed
  refine ⟨fun hs => ?_, fun hs hr => ?_, fun ho hh => ?_, fun _ _ => rfl⟩
  · obtain ⟨α, parsed, act, he⟩ := exec_frameCommand s p kind tag payload (by simp [hs])
    rw [he, State.takeFrame_of_offline hs]
  · obtain ⟨α, parsed, act, he⟩ := exec_frameCommand s p kind tag payload fun ⟨hk, _, he⟩ => hr ⟨hk, he⟩
    rw [he, State.takeFrame_of_held hs]
    rfl
  have bad {α : Type} {parsed : Option α} {act : State → α → State} (hp : parsed = none)
      (hi : exec (frameCommand p kind tag payload) s = .next (s.takeFrame p tag parsed act)) : malformed :=
    exec_of_malformed ho hh hp hi
  refine ⟨fun hk => ?_, fun hk hl => ?_, fun hk hl => ?_, fun hk hl => ?_, fun hk hl => ?_,
    fun hk c rest hc h4 => ?_, fun hk c u hc h2 => ?_, fun hk hl => ?_, fun hk c g0 g1 ds hc => ?_,
    fun hk => ⟨fun e c hr hl => ?_, fun hr => ?_⟩⟩
  · refine bad rfl (exec_frameCommand_unknown s p kind tag payload ?_)
    simp only [isLinkKind, Bool.and_eq_false_iff, decide_eq_false_iff_not]
    rcases hk with rfl | hk
    · exact .inl (by decide)
    · exact .inr (Nat.not_le.mpr hk)
  · rcases hk with rfl | rfl | rfl | rfl
    · exact bad (parseByte_of_length hl) rfl
    · exact bad (parseClass_of_length hl) rfl
    · exact bad (parseClass_of_length hl) rfl
    · exact bad (parseByte_of_length hl) rfl
  · rcases hk with rfl | rfl
    · exact bad (parseTemp_of_length hl) rfl
    · exact bad (parseTrain_of_length hl) rfl
  · subst hk
    exact bad (parseApplied_of_length hl) rfl
  · rcases hk with rfl | rfl | rfl
    · exact bad (parseEmpty_of_ne hl) rfl
    · exact bad (parseEmpty_of_ne hl) rfl
    · exact bad (parseEmpty_of_ne hl) (congrArg _ (State.takeResync_of_other fun h => hh h.1))
  · subst hc
    rcases hk with rfl | rfl | rfl | rfl | rfl
    · exact bad (parseClass_of_class h4) rfl
    · exact bad (parseApplied_of_class h4) rfl
    · exact bad (parseTrim_of_class h4) rfl
    · exact bad (parseTrain_of_class h4) rfl
    · exact bad (parseClass_of_class h4) rfl
  · subst hk hc
    exact bad (parseTrain_of_urgency h2) rfl
  · subst hk
    exact bad (parseTrim_of_length hl) rfl
  · subst hk hc
    have unfit (hf : ¬deltasFit (s.profile ⟨p, c⟩).laneCount ds) : malformed := by
      refine bad (parseTrim_of_unfit g0 g1 ?_) rfl
      rwa [Table.get_map]
    refine ⟨fun h0 hl => unfit ?_, fun h0 hl => unfit ?_, fun h0 ⟨d, hd, hr⟩ => unfit ?_⟩
    · rw [deltasFit, if_pos h0]
      omega
    · rw [deltasFit, if_neg h0]
      exact fun hf => hl hf.1
    · rw [deltasFit, if_neg h0]
      intro hf
      have := hf.2 d hd
      omega
  · subst hk
    exact bad ((State.judgeResult_of_some hr).trans (by rw [parseResult_of_length hl, Option.map_none])) rfl
  · subst hk
    have taken : exec (frameCommand p 0x0B tag payload) s =
        .next (s.takeFrame p tag (s.judgeResult p payload) _) := rfl
    rw [taken, State.judgeResult_of_none hr, State.takeFrame_of_good tag _ _ ho hh]

/-! ### Port requests (R58, R61, R70) -/

/-- A well-formed request frame, as O29 has it. -/
theorem State.queues_of_parsed {α : Type} {s : State} {p : PortId} {tag : Byte} {i : Instr} {body : ReqBody}
    {parsed : Option α} {act : State → α → State} {a : α} (hp : parsed = some a)
    (hi : exec i s = .next (s.takeFrame p tag parsed act))
    (ha : act (s.framed p) a = (s.framed p).takeRequest p tag body) : s.Queues p tag i body := by
  subst hp
  have taken (ho : (s.port p).state ≠ .offline) (hh : (s.port p).state ≠ .held) :
      exec i s = .next ((s.framed p).takeRequest p tag body) := by
    rw [hi, State.takeFrame_of_good tag a act ho hh, ha]
  have reqs : ((s.framed p).port p).reqs = (s.port p).reqs := by simp [State.framed]
  refine ⟨fun hs hl => ?_, fun hs hl => ?_, fun hs => ?_⟩
  · rw [taken (by simp [hs]) (by simp [hs]), State.takeRequest, if_pos ((s.framed_state p).trans hs),
      State.queueRequest, reqs,
      if_pos (show _ < Config.requestDepth from hl), State.framed, State.modPort_modPort]
    rfl
  · rw [taken (by simp [hs]) (by simp [hs]), State.takeRequest, if_pos ((s.framed_state p).trans hs),
      State.queueRequest, reqs,
      if_neg (show ¬_ < Config.requestDepth from Nat.not_lt.mpr hl)]
  · rw [taken (by rcases hs with h | h <;> simp [h]) (by rcases hs with h | h <;> simp [h]),
      State.takeRequest, if_neg]
    rw [s.framed_state p]
    rcases hs with h | h <;> simp [h]

/-- Settles O29: each request's payload gives its fields. -/
theorem requestFrames : Obligations.RequestFrames := by
  intro p tag s c g0 g1
  rw [← fromLe16_eq]
  have cls := toClass_ofNat c
  refine ⟨?_, ?_, fun ds hds => ?_, ?_, ?_, ?_, ?_⟩
  · exact State.queues_of_parsed (parsed := parseClass [BitVec.ofNat 8 c.val]) cls rfl rfl
  · exact State.queues_of_parsed (parsed := parseApplied _) (a := (c, fromLe16 g0 g1))
      (by simp only [parseApplied, cls, Option.map_some]) rfl rfl
  · have fit : deltasFit (((s.profiles.get p).map Profile.laneCount).get c) ds := by
      rw [Table.get_map]
      change deltasFit (s.profile ⟨p, c⟩).laneCount ds
      rcases hds with ⟨h0, hl⟩ | ⟨hl, hne, hd⟩
      · rwa [deltasFit, if_pos h0]
      · rw [deltasFit, if_neg (by rw [hl]; exact fun h => hne (List.length_eq_zero_iff.mp h))]
        exact ⟨hl.symm, hd⟩
    exact State.queues_of_parsed (parseTrim_of_fit g0 g1 fit) rfl rfl
  · exact State.queues_of_parsed (parsed := parseTrain _) (a := (c, .routine))
      (by simp only [parseTrain, cls]; rfl) rfl rfl
  · exact State.queues_of_parsed (parsed := parseTrain _) (a := (c, .urgent))
      (by simp only [parseTrain, cls]; rfl) rfl rfl
  · exact State.queues_of_parsed (parsed := parseClass [BitVec.ofNat 8 c.val]) cls rfl rfl
  · exact State.queues_of_parsed (parsed := parseEmpty _) (a := ()) rfl rfl rfl

end Sys2Proof.Machine
end

section
/-! PROOF. HELLO, WAKE, RESYNC and bad frames in each port state: O27, O30 and O31. -/

namespace Sys2Proof.Machine

/-! ### Frames placed by a Port Unit -/

/-- What the receiver and the bad-frame count are does not matter to the placing of a frame. -/
theorem Port.place_framed (e : OutEntry) (x : Port) (rx : Rx) (bad : Nat) :
    Port.place e { x with rx := rx, bad := bad } = { x.place e with rx := rx, bad := bad } := by
  unfold Port.place Port.outLen Port.firstPlain
  dsimp only
  split_ifs <;> rfl

/-- A frame placed on a list just cleared is the one pending (R62, R64). -/
theorem Port.place_of_cleared {x : Port} (e : OutEntry) (hp : x.pend = []) (hh : x.heldBack = []) :
    x.place e = { x with pend := [e] } := by
  have room : x.outLen < Config.listDepth := by
    rw [Port.outLen, hp]
    cases x.tx <;> simp [Config.listDepth]
  rw [Port.place, if_pos room, if_pos hh, hp]
  rfl

theorem Port.restarted_eq (x : Port) (reply : OutFrame) : x.restarted reply = { x with
    bad := 0, reqs := [], temp := .unknown, heldBack := [], pend := [⟨reply, none⟩] } := by
  rw [Port.restarted, Port.place_of_cleared _ rfl rfl]
  rfl

theorem Port.held_eq (x : Port) : x.held = { x with
    state := .held, rx := .hunting, bad := 0, reqs := [], temp := .unknown, heldBack := []
    pend := [⟨.hold, none⟩] } := by
  rw [Port.held, Port.place_of_cleared _ rfl rfl]
  rfl

section
variable {s : State} {p : PortId} {tag : Byte}

/-! ### HELLO (R58, R64, R65) -/

theorem version_iff {v : Byte} : v.toNat = Config.version ↔ v = 1 :=
  ⟨fun h => BitVec.eq_of_toNat_eq h, fun h => h ▸ rfl⟩

theorem exec_hello (ho : (s.port p).state ≠ .offline) (hh : (s.port p).state ≠ .held) (version : Byte) :
    exec (.hello p tag [version]) s = .next ((s.framed p).takeHello p tag version) :=
  congrArg Host.Outcome.next (State.takeFrame_of_good tag version _ ho hh)

theorem State.helloSyncing_of_version (s : State) (p : PortId) (tag : Byte) :
    s.helloSyncing p tag 1 = ((s.welcome p tag).modPort p fun x =>
      { x with state := .online }).enteredOnline := if_pos rfl

theorem State.helloSyncing_of_other {version : Byte} (h : version ≠ 1) :
    s.helloSyncing p tag version = s.answerAtOnce p tag .badVersion := if_neg (mt version_iff.mp h)

theorem State.helloRestart_of_version (s : State) (p : PortId) (tag : Byte) :
    s.helloRestart p tag 1 = (s.restart p .online fun t => t.welcome p tag).enteredOnline := if_pos rfl

theorem State.helloRestart_of_other {version : Byte} (h : version ≠ 1) : s.helloRestart p tag version =
    s.restart p .syncing fun t => t.answer p tag .badVersion none none := if_neg (mt version_iff.mp h)

/-- A restart by a good frame, the port restarted as it was before the frame (R64). -/
theorem State.restart_framed (s : State) (p : PortId) (next : PortState) (reply : State → State)
    (f : OutFrame) (hr : ∀ t : State, t.profiles = s.profiles → reply t = t.emit p f) :
    (s.framed p).restart p next reply = (((s.leave p { s.port p with
      rx := .hunting, bad := 0, reqs := [], temp := .unknown, heldBack := []
      pend := [⟨f, none⟩] } true).abandonPort p false).modPort p fun x =>
        { x with state := next }).decide := by
  rw [State.restart_eq (s.framed p) p next reply f hr, State.framed, State.leave_modPort,
    State.port_modPort_self, Port.restarted_eq]

/-- Settles O27: in SYNCING the answer, and ONLINE with it; in ONLINE and PARKED the restart. -/
theorem hello : Obligations.Hello := by
  intro p tag version s welcome restarted
  refine ⟨fun hs hv => ?_, fun hs hv => ?_, fun hs => ?_⟩
  · subst hv
    rw [exec_hello (by simp [hs]) (by simp [hs]), State.takeHello, if_pos ((s.framed_state p).trans hs),
      State.helloSyncing_of_version, State.welcome, State.emit, State.framed, State.modPort_modPort,
      State.modPort_modPort]
    simp only [Port.place_framed]
    rfl
  · rw [exec_hello (by simp [hs]) (by simp [hs]), State.takeHello, if_pos ((s.framed_state p).trans hs),
      State.helloSyncing_of_other hv]
  · have restarts : exec (.hello p tag [version]) s = .next ((s.framed p).helloRestart p tag version) := by
      rw [exec_hello (by rcases hs with h | h <;> simp [h]) (by rcases hs with h | h <;> simp [h]),
        State.takeHello, if_neg]
      rw [s.framed_state p]
      rcases hs with h | h <;> simp [h]
    rw [restarts]
    refine ⟨fun hv => ?_, fun hv => ?_⟩
    · have welcomes (t : State) (ht : t.profiles = (s.framed p).profiles) :
          t.welcome p tag = t.emit p welcome := by
        rw [State.welcome, ht]
        rfl
      rw [hv, State.helloRestart_of_version, State.restart_framed s p _ _ welcome welcomes]
      rfl
    · have answers (t : State) (_ : t.profiles = (s.framed p).profiles) :
          t.answer p tag .badVersion none none = t.emit p (.answer tag .badVersion none none) := rfl
      rw [State.helloRestart_of_other hv, State.restart_framed s p _ _ _ answers]
      rfl

/-! ### WAKE and RESYNC (R58, R59, R61, R63) -/

theorem exec_wake (ho : (s.port p).state ≠ .offline) (hh : (s.port p).state ≠ .held) :
    exec (.wake p tag []) s = .next ((s.framed p).takeWake p tag) :=
  congrArg Host.Outcome.next (State.takeFrame_of_good tag () _ ho hh)

theorem State.takeWake_of_parked (h : (s.port p).state = .parked) : s.takeWake p tag =
    ((s.answer p tag .done none none).modPort p fun x => { x with state := .online }).enteredOnline := by
  simp only [State.takeWake, h]

theorem State.takeWake_of_online (h : (s.port p).state = .online) :
    s.takeWake p tag = s.answerAtOnce p tag .done := by
  simp only [State.takeWake, h]

theorem State.takeWake_of_syncing (h : (s.port p).state = .syncing) :
    s.takeWake p tag = s.answerAtOnce p tag .notOnline := by
  simp only [State.takeWake, h]

theorem State.takeResync_of_held (h : (s.port p).state = .held) :
    s.takeResync p tag [] = (s.hunt p).enterSyncing p := if_pos ⟨h, rfl⟩

/-- Settles O30: WAKE by the port's state, and RESYNC out of HELD or a good frame and nothing more. -/
theorem wakeAndResync : Obligations.WakeAndResync := by
  intro p tag s
  refine ⟨fun hs => ?_, fun hs => ?_, fun hs => ?_, fun hs => ?_, fun hh ho => ?_⟩
  · rw [exec_wake (by simp [hs]) (by simp [hs]), State.takeWake_of_parked ((s.framed_state p).trans hs),
      State.answer, State.emit, State.framed, State.modPort_modPort, State.modPort_modPort]
    simp only [Port.place_framed]
    rfl
  · rw [exec_wake (by simp [hs]) (by simp [hs]), State.takeWake_of_online ((s.framed_state p).trans hs)]
  · rw [exec_wake (by simp [hs]) (by simp [hs]), State.takeWake_of_syncing ((s.framed_state p).trans hs)]
  · refine congrArg Host.Outcome.next ((State.takeResync_of_held hs).trans ?_)
    rw [State.hunt, State.enterSyncing_eq, State.leave_modPort, State.port_modPort_self]
    rfl
  · exact congrArg Host.Outcome.next ((State.takeResync_of_other fun h => hh h.1).trans
      (State.takeFrame_of_good tag () _ ho hh))

/-! ### Bad frames (R53, R62, R67 to R69) -/

theorem exec_badFrame {cause : BadCause} (h : isBad cause = true) :
    exec (.badFrame p cause) s = .next (s.takeBad p) := congrArg Host.Outcome.next (if_pos h)

theorem State.takeBad_of_offline (h : (s.port p).state = .offline) : s.takeBad p = s := by
  simp only [State.takeBad, h]

theorem State.takeBad_of_held (h : (s.port p).state = .held) : s.takeBad p = s.hunt p := by
  simp only [State.takeBad, h]

theorem State.takeBad_of_policy (ho : (s.port p).state ≠ .offline) (hh : (s.port p).state ≠ .held) :
    s.takeBad p = s.applyPolicy p := by
  unfold State.takeBad
  cases hs : (s.port p).state with
  | offline => exact absurd hs ho
  | held => exact absurd hs hh
  | syncing => rfl
  | online => rfl
  | parked => rfl

theorem Port.nakPending_iff {x : Port} : x.nakPending = true ↔
    ∃ f ∈ x.pend ++ x.heldBack.map HeldFrame.entry, f.frame = .nak := by
  simp only [Port.nakPending, Port.pending, List.any_eq_true, beq_iff_eq]

/-- A NAK where none waits, the bad frame counted (R68, R74). -/
theorem Port.placeNak_counted (x : Port) (rx : Rx) (bad : Nat) :
    Port.placeNak { x with rx := rx, bad := bad } = { (if x.nakPending then x
      else x.place ⟨.nak, none⟩) with rx := rx, bad := bad } := by
  have same : Port.nakPending { x with rx := rx, bad := bad } = x.nakPending := rfl
  rw [Port.placeNak, same, Port.place_framed]
  cases x.nakPending <;> rfl

theorem State.applyPolicy_of_counted (hp : (s.port p).policy = .tolerant) (hb : (s.port p).bad < 3) :
    s.applyPolicy p = s.modPort p fun x => Port.placeNak { x with rx := .hunting, bad := x.bad + 1 } :=
  if_pos ⟨hp, hb⟩

theorem State.applyPolicy_of_held (h : (s.port p).policy = .strict ∨ 3 ≤ (s.port p).bad) :
    s.applyPolicy p = s.enterHeld p := by
  refine if_neg ?_
  rintro ⟨hp, hb⟩
  rcases h with h | h
  · simp [h] at hp
  · exact absurd hb (Nat.not_lt.mpr h)

/-- Settles O31: the count and the NAK below the limit, and HELD as a way out of ONLINE beyond it. -/
theorem badFrames : Obligations.BadFrames := by
  intro p cause s hbad held
  rw [exec_badFrame hbad]
  refine ⟨fun hs => by rw [State.takeBad_of_offline hs], fun hs => ?_, fun ho hh => ⟨fun hp hb => ?_,
    fun h => ?_⟩⟩
  · rw [State.takeBad_of_held hs]
    rfl
  · rw [State.takeBad_of_policy ho hh, State.applyPolicy_of_counted hp hb, State.modPort,
      Port.placeNak_counted]
    simp only [Port.nakPending_iff]
  · rw [State.takeBad_of_policy ho hh, State.applyPolicy_of_held h, State.enterHeld_eq, Port.held_eq]
    rfl

end

end Sys2Proof.Machine
end

section
/-! PROOF. The frame check and the sideband lines: O32 and O33. -/

namespace Sys2Proof.Machine

/-! ### The frame check (R52) -/

/-- One left shift, in the words of the statement. -/
theorem crcShift_eq (v : Byte) : crcShift v = shiftOnce v := by
  have shifted : v <<< 1 = BitVec.ofNat 8 (2 * v.toNat) := by
    refine BitVec.eq_of_toNat_eq ?_
    rw [BitVec.toNat_shiftLeft, BitVec.toNat_ofNat, Nat.shiftLeft_eq, Nat.mul_comm, pow_one]
  rw [crcShift, shiftOnce, shifted, BitVec.msb_eq_decide]
  by_cases carry : 128 ≤ v.toNat <;> simp [carry]

theorem crcByte_eq (v b : Byte) : crcByte v b = Nat.iterate shiftOnce 8 (v ^^^ b) := by
  rw [crcByte]
  simp only [crcShift_eq]
  rfl

/-- Settles O32: byte by byte from 0, over kind, tag, length and payload. -/
theorem frameCheck_holds : Obligations.FrameCheck := by
  refine ⟨rfl, fun bytes b => ?_, by decide +kernel, fun f _ => ⟨_, rfl, rfl⟩,
    fun kind tag check payload => ?_⟩
  · rw [crc8, List.foldl_append, List.foldl_cons, List.foldl_nil, crcByte_eq]
    rfl
  · rw [isBad, bne_iff_ne, ne_comm]
    rfl

/-! ### Characters in (R50, log 29) -/

section
variable {s : State} {p : PortId}

/-- The state with the character in reception at port `p` as `bits` say. -/
def State.withChar (s : State) (p : PortId) (bits : Option (List Bool)) : State :=
  s.modPort p fun x => { x with char := bits }

theorem State.takeLevel_of_stopped (h : (s.port p).rx = .stopped) (level : Bool) :
    s.takeLevel p level = .next s := by
  simp only [State.takeLevel, h]

/-- Between characters a high level is rest, and a low one opens a character. -/
theorem State.takeLevel_of_rest (hr : (s.port p).rx ≠ .stopped) (hc : (s.port p).char = none)
    (level : Bool) :
    s.takeLevel p level = .next (if level then s else s.withChar p (some [])) := by
  unfold State.takeLevel
  cases h : (s.port p).rx with
  | stopped => exact absurd h hr
  | hunting => simp only [hc]; rfl
  | inFrame taken => simp only [hc]; rfl

theorem State.takeLevel_of_bit {bits : List Bool} (hr : (s.port p).rx ≠ .stopped)
    (hc : (s.port p).char = some bits) (hl : bits.length < 8) (level : Bool) :
    s.takeLevel p level = .next (s.withChar p (some (bits ++ [level]))) := by
  unfold State.takeLevel
  cases h : (s.port p).rx with
  | stopped => exact absurd h hr
  | hunting => simp only [hc, if_pos hl]; rfl
  | inFrame taken => simp only [hc, if_pos hl]; rfl

theorem State.takeLevel_of_stop {bits : List Bool} (hr : (s.port p).rx ≠ .stopped)
    (hc : (s.port p).char = some bits) (hl : 8 ≤ bits.length) (level : Bool) :
    s.takeLevel p level = (s.withChar p none).takeChar p ⟨byteOfLsbFirst bits, level⟩ := by
  unfold State.takeLevel
  cases h : (s.port p).rx with
  | stopped => exact absurd h hr
  | hunting => simp only [hc, if_neg (Nat.not_lt.mpr hl)]; rfl
  | inFrame taken => simp only [hc, if_neg (Nat.not_lt.mpr hl)]; rfl

@[simp] theorem State.rx_withChar (bits : Option (List Bool)) :
    ((s.withChar p bits).port p).rx = (s.port p).rx := by simp [State.withChar]

@[simp] theorem State.char_withChar (bits : Option (List Bool)) :
    ((s.withChar p bits).port p).char = bits := by simp [State.withChar]

@[simp] theorem State.withChar_withChar (a b : Option (List Bool)) :
    (s.withChar p a).withChar p b = s.withChar p b := State.modPort_modPort ..

theorem State.withChar_of_char {bits : Option (List Bool)} (h : (s.port p).char = bits) :
    s.withChar p bits = s := State.modPort_eq_self _ _ _ (by rw [← h])

/-- Data bits are kept, each in its turn. -/
theorem State.takeLevels_bits (rest : List Bool) {done : List Bool} (tail : List Bool) :
    ∀ {s : State}, (s.port p).rx ≠ .stopped → (s.port p).char = some done →
    done.length + rest.length ≤ 8 →
    s.takeLevels p (rest ++ tail) = (s.withChar p (some (done ++ rest))).takeLevels p tail := by
  induction rest generalizing done with
  | nil =>
    intro s _ hc _
    rw [List.append_nil, State.withChar_of_char hc, List.nil_append]
  | cons b rest ih =>
    intro s hr hc hl
    simp only [List.length_cons] at hl
    rw [List.cons_append, State.takeLevels, State.takeLevel_of_bit hr hc (by omega)]
    simp only
    rw [ih (done := done ++ [b]) (by simpa using hr) (by simp)
      (by simp only [List.length_append, List.length_singleton]; omega)]
    simp

/-- The last event of a row is the row's outcome. -/
theorem State.takeLevels_singleton (level : Bool) : s.takeLevels p [level] = s.takeLevel p level := by
  rw [State.takeLevels]
  cases s.takeLevel p level <;> rfl

theorem State.takeChars_singleton (c : LineChar) : s.takeChars p [c] = s.takeChar p c := by
  rw [State.takeChars]
  cases s.takeChar p c <;> rfl

/-- The ten bit times of a character make it one character of the receiver (R50). -/
theorem State.takeLevels_char (hr : (s.port p).rx ≠ .stopped) (hc : (s.port p).char = none) (b : Byte)
    (stop : Bool) : s.takeLevels p (false :: (List.range 8).map b.getLsbD ++ [stop]) =
      s.takeChar p ⟨b, stop⟩ := by
  rw [List.cons_append, State.takeLevels, State.takeLevel_of_rest hr hc]
  simp only [Bool.false_eq_true, if_false]
  rw [State.takeLevels_bits _ (done := []) _ (by simpa using hr) (by simp) (by simp),
    State.takeLevels_singleton, State.takeLevel_of_stop (by simpa using hr) (State.char_withChar _)
    (by simp), List.nil_append, byteOfLsbFirst_bits]
  simp only [State.withChar_withChar, State.withChar_of_char hc]

/-! ### Frames in (R51 to R53) -/

theorem exec_startByteReceived (s : State) (p : PortId) : exec (.startByteReceived p) s = .next
    (if (s.port p).rx = .hunting then s.modPort p fun x => { x with rx := .inFrame [] } else s) := rfl

theorem State.takeChar_of_start (h : (s.port p).rx = .hunting) :
    s.takeChar p ⟨0xC5, true⟩ = .next (s.modPort p fun x => { x with rx := .inFrame [] }) := by
  simp only [State.takeChar, h, Config.startByte, and_self, if_true, exec_startByteReceived]

/-- The length byte of a frame in range is its payload's length (R51). -/
theorem toNat_length {payload : List Byte} (h : payload.length ≤ 80) :
    (BitVec.ofNat 8 payload.length).toNat = payload.length := by
  rw [BitVec.toNat_ofNat]
  omega

theorem frameFull_of_payload (kind tag : Byte) {payload : List Byte} (h : payload.length ≤ 80) :
    frameFull ([kind, tag, BitVec.ofNat 8 payload.length] ++ payload) = true := by
  simp [frameFull, toNat_length h]

/-- The byte after the payload makes the command of its frame (R51, R53). -/
theorem frameChar_of_check (p : PortId) (kind tag check : Byte) {payload : List Byte}
    (h : payload.length ≤ 80) :
    frameChar p ([kind, tag, BitVec.ofNat 8 payload.length] ++ payload) ⟨check, true⟩ =
      some (if frameCheck kind tag payload = check then frameCommand p kind tag payload
        else .badFrame p (.check kind tag payload check)) :=
  if_pos (frameFull_of_payload kind tag h)

theorem frameChar_of_length (p : PortId) (kind tag n : Byte) : frameChar p [kind, tag] ⟨n, true⟩ =
    if 80 < n.toNat then some (.badFrame p (.length n)) else none := by
  simp [frameChar, frameFull, Config.payloadMax]

/-- Kind, tag and length are kept where the length is in range. -/
theorem State.takeChars_header (h : (s.port p).rx = .inFrame []) (kind tag n : Byte)
    (hn : n.toNat ≤ 80) (tail : List LineChar) :
    s.takeChars p (⟨kind, true⟩ :: ⟨tag, true⟩ :: ⟨n, true⟩ :: tail) =
      (s.modPort p fun x => { x with rx := .inFrame [kind, tag, n] }).takeChars p tail := by
  have first := State.takeChar_of_inFrame h (c := ⟨kind, true⟩) rfl
  have second := State.takeChar_of_inFrame (s := s.modPort p fun x => { x with rx := .inFrame [kind] })
    (p := p) (taken := [kind]) (by simp) (c := ⟨tag, true⟩) rfl
  have third := State.takeChar_of_inFrame (s := s.modPort p fun x => { x with rx := .inFrame [kind, tag] })
    (p := p) (taken := [kind, tag]) (by simp) (c := ⟨n, true⟩)
    ((frameChar_of_length p kind tag n).trans (if_neg (Nat.not_lt.mpr hn)))
  simp only [State.modPort_modPort, List.nil_append, List.cons_append] at first second third
  simp only [State.takeChars, first, second, third]

/-- The characters of a good frame bring its command (R51, R52). -/
theorem State.takeChars_frame (h : (s.port p).rx = .hunting) (kind tag : Byte) {payload : List Byte}
    (hl : payload.length ≤ 80) :
    s.takeChars p (([0xC5, kind, tag, BitVec.ofNat 8 payload.length] ++ payload ++
      [frameCheck kind tag payload]).map fun b => ⟨b, true⟩) =
    exec (frameCommand p kind tag payload) (s.modPort p fun x =>
      { x with rx := .inFrame ([kind, tag, BitVec.ofNat 8 payload.length] ++ payload) }) := by
  have chars : ([0xC5, kind, tag, BitVec.ofNat 8 payload.length] ++ payload ++
      [frameCheck kind tag payload]).map (fun b => (⟨b, true⟩ : LineChar)) =
      ⟨0xC5, true⟩ :: ⟨kind, true⟩ :: ⟨tag, true⟩ :: ⟨BitVec.ofNat 8 payload.length, true⟩ ::
        (payload.map (fun b => ⟨b, true⟩) ++ [⟨frameCheck kind tag payload, true⟩]) := by simp
  rw [chars, State.takeChars, State.takeChar_of_start h]
  simp only
  have value := toNat_length hl
  rw [State.takeChars_header (by simp) kind tag (BitVec.ofNat 8 payload.length) (by omega),
    State.takeChars_payload p kind tag (BitVec.ofNat 8 payload.length) payload [] _ _ (by simp)
      (by simp [value]),
    State.takeChars_singleton, State.modPort_modPort, State.modPort_modPort,
    State.takeChar_of_command (by simp) (frameChar_of_check p kind tag _ hl), if_pos rfl]
  rfl

/-! ### Frames out (R50, R66, R72) -/

theorem Port.lineFrame_of_line {x : Port} {e : OutEntry}
    (h : x.finishing = some e ∨ (x.finishing = none ∧ x.tx = some e)) : x.lineFrame = some e.frame := by
  rcases h with h | ⟨hf, ht⟩
  · rw [Port.lineFrame, h]
    rfl
  · rw [Port.lineFrame, hf, ht]
    rfl

theorem Port.level_of_rest {x : Port} (hf : x.finishing = none) (ht : x.tx = none) : x.level = true := by
  rw [Port.level, Port.lineFrame, hf, ht]
  rfl

theorem Port.level_of_bit {x : Port} {f : OutFrame} {b : Bool} (hf : x.lineFrame = some f)
    (hb : f.levels[x.sent]? = some b) : x.level = b := by
  simp only [Port.level, hf, hb, Option.getD_some]

theorem State.driveBit_of_line {f : OutFrame} (hf : (s.port p).lineFrame = some f) : s.driveBit p =
    if (s.port p).sent + 1 < 10 * f.wire.length then
      .next (s.modPort p fun x => { x with sent := x.sent + 1 })
    else exec (.frameSent p) s := by
  simp only [State.driveBit, hf, OutFrame.levels_length]

end

/-- Settles O33: the receiver character by character, the transmitter bit by bit. -/
theorem sidebandLines : Obligations.SidebandLines := by
  refine ⟨fun b => rfl, fun p s hr => ⟨State.takeLevel_of_stopped hr, State.takeChar_of_stopped hr⟩,
    fun p s b stop hr hc => ⟨State.takeLevel_of_rest hr hc true, State.takeLevels_char hr hc b stop⟩,
    fun p s kind tag payload hr hl => State.takeChars_frame hr kind tag hl, fun p s => exec_startByteReceived s p,
    fun p s c hr hc => State.takeChar_of_hunting hr fun h => hc ⟨h.2, h.1⟩,
    fun p s taken v hr => State.takeChar_of_command hr rfl,
    fun p s kind tag n hr hn => State.takeChar_of_command hr
      ((frameChar_of_length p kind tag n).trans (if_pos hn)),
    fun p s kind tag check payload hl hr hc => State.takeChar_of_command hr
      ((frameChar_of_check p kind tag check hl).trans (congrArg some (if_neg hc.symm))),
    fun x => Port.level_of_rest, fun p s e he => ?_⟩
  have line := Port.lineFrame_of_line he
  refine ⟨fun b hb => Port.level_of_bit line hb, fun hl => ?_, fun hl => ?_⟩
  · rw [State.driveBit_of_line line, if_pos hl]
    rfl
  · rw [State.driveBit_of_line line, if_neg (Nat.not_lt.mpr hl)]

end Sys2Proof.Machine
end

section
/-! PROOF. Output lists, frames leaving SBOn, and the Store Arbiter: O39, O43, O44 and O55. -/

namespace Sys2Proof.Machine

/-! ### Placing a frame (R72, R73) -/

namespace Port
variable {x : Port} {e : OutEntry}

theorem place_of_room (hl : x.outLen < 24) (hh : x.heldBack = []) :
    x.place e = { x with pend := x.pend ++ [e] } := by
  rw [Port.place, if_pos (show x.outLen < Config.listDepth from hl), if_pos hh]

theorem place_behind (hl : x.outLen < 24) (hh : x.heldBack ≠ []) :
    x.place e = { x with heldBack := x.heldBack ++ [⟨e, 0⟩] } := by
  rw [Port.place, if_pos (show x.outLen < Config.listDepth from hl), if_neg hh]

theorem place_of_full (hl : 24 ≤ x.outLen) :
    x.place e = { x with heldBack := x.heldBack ++ [⟨e, x.firstPlain⟩] } := by
  rw [Port.place, if_neg (show ¬x.outLen < Config.listDepth from Nat.not_lt.mpr hl)]

theorem firstPlain_of_directives (h : ∀ f ∈ x.pend, f.frame.isDirective = true) : x.firstPlain = 0 := by
  have none : x.pend.findIdx? (fun e => !e.frame.isDirective) = none :=
    List.findIdx?_eq_none_iff.mpr fun f hf => by simp [h f hf]
  simp only [Port.firstPlain, none]

theorem firstPlain_of_plain {before after : List OutEntry} {f : OutEntry}
    (hp : x.pend = before ++ f :: after) (hb : ∀ d ∈ before, d.frame.isDirective = true)
    (hf : f.frame.isDirective = false) : x.firstPlain = x.tx.toList.length + before.length + 1 := by
  have none : before.findIdx? (fun e => !e.frame.isDirective) = none :=
    List.findIdx?_eq_none_iff.mpr fun d hd => by simp [hb d hd]
  have found : x.pend.findIdx? (fun e => !e.frame.isDirective) = some before.length := by
    rw [hp, List.findIdx?_append, none, List.findIdx?_cons, hf]
    simp
  simp only [Port.firstPlain, found]

/-- A pending frame's place after a removal: behind those before it that are left (R72). -/
theorem placeAfter_of_pend (drop : OutFrame → Bool) {before after : List OutEntry} {f : OutEntry}
    (hp : x.pend = before ++ f :: after) :
    x.placeAfter drop (x.tx.toList.length + before.length + 1) = if drop f.frame then 0
      else x.tx.toList.length + (before.filter fun d => !drop d.frame).length + 1 := by
  have past : ¬x.tx.toList.length + before.length + 1 ≤ x.tx.toList.length := by omega
  have index : x.tx.toList.length + before.length + 1 - x.tx.toList.length - 1 = before.length := by omega
  have count : x.tx.toList.length + before.length + 1 - x.tx.toList.length = (before ++ [f]).length := by
    rw [List.length_append, List.length_singleton]
    omega
  have taken : x.pend.take (before ++ [f]).length = before ++ [f] := by
    rw [hp.trans (List.append_cons ..)]
    exact List.take_left
  have there : x.pend[before.length]? = some f := by
    rw [hp, List.getElem?_append_right (Nat.le_refl _), Nat.sub_self]
    rfl
  simp only [Port.placeAfter]
  rw [if_neg past, index, there, count, taken, Option.any_some, List.countP_append,
    List.countP_eq_length_filter]
  split_ifs with h
  · rfl
  · simp [h, Nat.add_assoc]

theorem placeHeld_of_none (h : x.heldBack = []) : x.placeHeld = x := by
  simp only [Port.placeHeld, h]

theorem placeHeld_of_some {h : HeldFrame} {rest : List HeldFrame} (hh : x.heldBack = h :: rest) :
    x.placeHeld = if x.outLen < 24 ∧ h.waits = 0 then
      { x with pend := x.pend ++ [h.entry], heldBack := rest } else x := by
  simp only [Port.placeHeld, hh]
  rfl

/-- On a list of 24 no held-back frame is placed. -/
theorem placeHeld_of_full (h : 24 ≤ x.outLen) : x.placeHeld = x := by
  cases hh : x.heldBack with
  | nil => exact placeHeld_of_none hh
  | cons a rest => rw [placeHeld_of_some hh, if_neg fun hl => absurd hl.1 (Nat.not_lt.mpr h)]

end Port

theorem exec_deferredFramePlacement (s : State) (p : PortId) :
    exec (.deferredFramePlacement p) s = .next (s.modPort p Port.placeHeld) := rfl

/-- Settles O43: each case of the placing, of the removal and of the deferred placement. -/
theorem framePlacement : Obligations.FramePlacement := by
  intro x e
  refine ⟨Port.place_of_room, Port.place_behind, fun hl hd => ?_, fun before f after hl hp hb hf => ?_,
    fun _ _ _ => rfl, fun _ => rfl, fun drop w => ⟨fun hw => if_pos hw, fun before f after hp hw => ?_⟩, ?_⟩
  · rw [Port.place_of_full hl, Port.firstPlain_of_directives hd]
  · rw [Port.place_of_full hl, Port.firstPlain_of_plain hp hb hf]
  · rw [hw, Port.placeAfter_of_pend drop hp]
  · rintro s p rfl
    refine ⟨fun h => ?_, fun h rest hh hw => ?_, fun h rest hh hl hw => ?_⟩
    · refine congrArg Host.Outcome.next (State.modPort_eq_self _ _ _ ?_)
      exact h.elim Port.placeHeld_of_none Port.placeHeld_of_full
    · refine congrArg Host.Outcome.next (State.modPort_eq_self _ _ _ ?_)
      rw [Port.placeHeld_of_some hh, if_neg fun h => hw h.2]
    · rw [exec_deferredFramePlacement, State.modPort, Port.placeHeld_of_some hh, if_pos ⟨hl, hw⟩]

/-! ### Frames leaving SBOn (R66, R72, R125, R146) -/

namespace Port
variable {x : Port}

/-- On an idle line the head of the list begins. -/
theorem startTx_of_idle (hf : x.finishing = none) (ht : x.tx = none) :
    x.startTx = { x with tx := x.pend.head?, pend := x.pend.tail } := by
  obtain ⟨_, _, _, _, _, _, _, _, tx, pend, _, finishing, _, _⟩ := x
  cases hf
  cases ht
  cases pend <;> rfl

theorem startTx_of_tx {f : OutEntry} (ht : x.tx = some f) : x.startTx = x := by
  simp only [Port.startTx, ht]

/-- With frame `f` first on the list, on the line or about to begin, the list begun is `f` on the line
and the rest pending. -/
theorem startTx_of_first {f : OutEntry} {rest : List OutEntry} (hf : x.finishing = none)
    (h : (x.tx = some f ∧ rest = x.pend) ∨ (x.tx = none ∧ x.pend = f :: rest)) :
    x.startTx = { x with tx := some f, pend := rest } := by
  rcases h with ⟨ht, rfl⟩ | ⟨ht, hp⟩
  · rw [startTx_of_tx ht, ← ht]
  · rw [startTx_of_idle hf ht, hp]
    rfl

theorem frameSent_of_finishing {f : OutEntry} (h : x.finishing = some f) :
    x.frameSent = Port.startTx { x with finishing := none, sent := 0 } := by
  rw [Port.frameSent, if_pos (by rw [h]; rfl)]

theorem frameSent_of_first {f : OutEntry} {rest : List OutEntry} (hf : x.finishing = none)
    (h : (x.tx = some f ∧ rest = x.pend) ∨ (x.tx = none ∧ x.pend = f :: rest)) :
    x.frameSent = { x with
      tx := rest.head?, pend := rest.tail, sent := 0
      heldBack := x.heldBack.map fun h => { h with waits := h.waits - 1 } } := by
  rw [Port.frameSent, if_neg (by simp [hf]), startTx_of_first hf h]
  exact startTx_of_idle hf rfl

theorem leavingFrame_of_first {f : OutEntry} {rest : List OutEntry} (hf : x.finishing = none)
    (h : (x.tx = some f ∧ rest = x.pend) ∨ (x.tx = none ∧ x.pend = f :: rest)) :
    x.leavingFrame = some f := by
  rw [Port.leavingFrame, if_neg (by simp [hf]), startTx_of_first hf h]

end Port

section
variable {s : State} {p : PortId} {e : EngineId} {id : Byte}

theorem State.frameSent_of_finishing {f : OutEntry} (h : (s.port p).finishing = some f) :
    s.frameSent p = s.modPort p Port.frameSent := by
  have leaving : (s.port p).leavingFrame = some f := by rw [Port.leavingFrame, if_pos (by rw [h]; rfl), h]
  simp only [State.frameSent, leaving, h]

theorem State.frameSent_of_empty (hf : (s.port p).finishing = none) (ht : (s.port p).tx = none)
    (hp : (s.port p).pend = []) : s.frameSent p = s := by
  have leaving : (s.port p).leavingFrame = none := by
    rw [Port.leavingFrame, if_neg (by simp [hf]), Port.startTx_of_idle hf ht, hp]
    rfl
  simp only [State.frameSent, leaving]

/-- The first frame of the list leaves without a report where no engine owns it or it is no BEGIN or
TRIAL. -/
theorem State.frameSent_of_unreported {f : OutEntry} (hf : (s.port p).finishing = none)
    (hl : (s.port p).leavingFrame = some f) (h : f.owner = none ∨ f.frame.trialId = none) :
    s.frameSent p = s.modPort p Port.frameSent := by
  rcases h with h | h
  · simp only [State.frameSent, hl, hf, h]
  · simp only [State.frameSent, hl, hf, h]
    cases f.owner <;> rfl

theorem State.frameSent_of_reported {f : OutEntry} (hf : (s.port p).finishing = none)
    (hl : (s.port p).leavingFrame = some f) (ho : f.owner = some e) (hi : f.frame.trialId = some id) :
    s.frameSent p = (s.modPort p Port.frameSent).reportSent e id := by
  simp only [State.frameSent, hl, hf, ho, hi]

/-! ### Completion reports at the engine (R125, R146) -/

theorem State.reportSent_of_other (h : ∀ c ∈ (s.engine e).ctx, c.leaving ≠ some id) :
    s.reportSent e id = s := by
  rw [State.reportSent]
  cases hc : (s.engine e).ctx with
  | none => rfl
  | some c => exact if_pos (h c hc)

variable {c : Ctx}

theorem State.reportSent_of_outstanding (hc : (s.engine e).ctx = some c) (hl : c.leaving = some id)
    (ho : c.outstanding = some id) : s.reportSent e id = s.setCtx e (some { c with
      leaving := none, timer := some ⟨s.now, ms s.trialTimeout⟩ }) := by
  simp only [State.reportSent, hc, hl, ho, ne_eq, not_true_eq_false, if_false, if_true]

theorem State.reportSent_of_answered (hc : (s.engine e).ctx = some c) (hl : c.leaving = some id)
    (ho : c.outstanding ≠ some id) : s.reportSent e id = s.proceed e { c with leaving := none } := by
  simp only [State.reportSent, hc, hl, ho, ne_eq, not_true_eq_false, if_false]

end

/-- Settles O44: the list moved on, then the report where there is one. -/
theorem frameSent : Obligations.FrameSent := by
  intro s p
  have exec_eq : exec (.frameSent p) s = .next (s.frameSent p) := rfl
  rw [exec_eq]
  refine ⟨fun f hf => ?_, fun hf ht hp => by rw [State.frameSent_of_empty hf ht hp],
    fun f rest hf hfirst t ht => ?_⟩
  · rw [State.frameSent_of_finishing hf, State.modPort, Port.frameSent_of_finishing hf]
  · have leaving := Port.leavingFrame_of_first hf hfirst
    have sent : s.modPort p Port.frameSent = t := by
      rw [State.modPort, Port.frameSent_of_first hf hfirst, ht]
    have engine : t.engine = s.engine := by rw [ht]; rfl
    refine ⟨fun h => by rw [State.frameSent_of_unreported hf leaving h, sent], fun e id ho hi => ?_⟩
    rw [State.frameSent_of_reported hf leaving ho hi, sent]
    refine ⟨fun h => ?_, fun c hc hl => ⟨fun hout => ?_, fun hout => ?_⟩⟩
    · rw [State.reportSent_of_other (by rwa [engine])]
    · rw [State.reportSent_of_outstanding (by rw [engine, hc]) hl hout, State.setCtx_eq, ht]
      rfl
    · rw [State.reportSent_of_answered (by rw [engine, hc]) hl hout]

/-! ### Services without their grant, and of disabled classes (R76, R80, R81) -/

section
variable {s : State} {p : PortId} {tag : Byte}

/-- A service with no request of its kind due is nothing. -/
theorem State.serve_of_not_due {α : Type} {kind : ReqBody → Option α} {f : State → Byte → α → State}
    (h : ∀ tag body a, kind body = some a → ¬s.RequestDue p tag body) : s.serve p kind f = s := by
  refine (s.serve_cases p kind f).resolve_right ?_
  rintro ⟨tag, body, a, hdue, hk, -⟩
  exact h tag body a hk hdue

theorem State.ifEnabled_of_disabled {k : Key} {f : State → State} (h : s.classEnabled k = false) :
    s.ifEnabled k tag f = s.answer k.port tag .classDisabled none none := if_neg (by simp [h])

/-- A due request of a disabled class: gone from the queue, and answered (R81). -/
theorem State.serve_of_disabled {α : Type} {kind : ReqBody → Option α} {body : ReqBody} {a : α}
    {cls : α → ClassId} {f : State → Byte → α → State → State} (hdue : s.RequestDue p tag body)
    (hk : kind body = some a) (hd : s.classEnabled ⟨p, cls a⟩ = false) :
    s.serve p kind (fun t tag a => t.ifEnabled ⟨p, cls a⟩ tag (f t tag a)) =
      { s with
        arb := p.castSucc + 1
        ports := s.ports.set p <| Port.place ⟨.answer tag .classDisabled none none, none⟩
          { s.port p with reqs := (s.port p).reqs.tail } } := by
  have disabled : (s.takeHead p).classEnabled ⟨p, cls a⟩ = false := hd
  rw [State.serve_of_due hdue hk, State.ifEnabled_of_disabled disabled]
  exact congrArg (State.granted · (portRequester p)) (State.modPort_modPort ..)

end

/-- Settles O39: nothing without the grant, CLASS_DISABLED at it for a disabled class. -/
theorem servicesWait : Obligations.ServicesWait := by
  intro s p
  refine ⟨fun h => congrArg _ (State.serve_of_not_due fun tag body a hk hdue => ?_),
    fun h => congrArg _ (State.serve_of_not_due fun tag body a hk hdue => ?_),
    fun h => congrArg _ (State.serve_of_not_due fun tag body a hk hdue => ?_),
    fun h => congrArg _ (State.serve_of_not_due fun tag body a hk hdue => ?_),
    fun h => congrArg _ (State.serve_of_not_due fun tag body a hk hdue => ?_),
    fun h => congrArg _ (State.serve_of_not_due fun tag body a hk hdue => ?_),
    fun tag c g ds u hd refused hr => ?_, rfl, fun _ _ _ _ => rfl⟩
  · cases body with
    | lookup c => exact h ⟨tag, c, hdue⟩
    | _ => cases hk
  · cases body with
    | applied c g => exact h ⟨tag, c, g, hdue⟩
    | _ => cases hk
  · cases body with
    | trim c g ds => exact h ⟨tag, c, g, ds, hdue⟩
    | _ => cases hk
  · cases body with
    | retire c => exact h ⟨tag, c, hdue⟩
    | _ => cases hk
  · cases body with
    | train c u => exact h ⟨tag, c, u, hdue⟩
    | _ => cases hk
  · cases body with
    | park => exact h ⟨tag, hdue⟩
    | _ => cases hk
  · subst hr
    exact ⟨fun h => congrArg _ (State.serve_of_disabled (cls := id) (a := c) h rfl hd),
      fun h => congrArg _ (State.serve_of_disabled (cls := Prod.fst) (a := (c, g)) h rfl hd),
      fun h => congrArg _ (State.serve_of_disabled (cls := Prod.fst) (a := (c, g, ds)) h rfl hd),
      fun h => congrArg _ (State.serve_of_disabled (cls := id) (a := c) h rfl hd),
      fun h => congrArg _ (State.serve_of_disabled (cls := Prod.fst) (a := (c, u)) h rfl hd)⟩

/-! ### The Store Arbiter (R76) -/

section
variable {s : State}

theorem State.waiting_port (p : PortId) : s.waiting p.castSucc = true ↔
    (s.port p).state = .online ∧ (s.port p).reqs ≠ [] ∧ (s.port p).outLen < 12 := by
  have port : s.waiting p.castSucc = s.portWaiting p := dif_pos p.isLt
  rw [port]
  simp only [State.portWaiting, Bool.and_eq_true, beq_iff_eq, Bool.not_eq_true', List.isEmpty_eq_false_iff,
    decide_eq_true_eq, and_assoc]
  rfl

theorem State.waiting_mailbox : s.waiting 8 = true ↔ ∃ c, s.mb.copy = some c ∧
    c.code ∈ [0x01#8, 0x02, 0x03, 0x04, 0x05, 0x06, 0x0B, 0x0D] := by
  have mailbox : s.waiting 8 = s.mailboxWaiting := dif_neg (by decide)
  rw [mailbox, State.mailboxWaiting]
  cases s.mb.copy with
  | none => simp
  | some c => simp [needsStore]

/-- A requester stands as many places after the pointer as its turns away say. -/
theorem State.turnsAway_arb_add (i : Fin 9) : s.turnsAway (s.arb + i) = i.val := by
  rw [State.turnsAway, add_sub_cancel_left]

theorem State.exists_arb_add (r : Requester) : ∃ i, s.arb + i = r := ⟨r - s.arb, add_sub_cancel _ _⟩

/-- The grant goes to the first requester waiting at or after the pointer. -/
theorem State.grant_eq_some {r : Requester} : s.grant = some r ↔ s.waiting r = true ∧
    ∀ q, s.turnsAway q < s.turnsAway r → s.waiting q = false := by
  obtain ⟨i, rfl⟩ := s.exists_arb_add r
  rw [State.grant, List.find?_eq_some_iff_getElem]
  refine and_congr_right fun _ => ⟨?_, fun h => ⟨i.val, by simp, by simp, fun j hj => ?_⟩⟩
  · rintro ⟨j, hj, hr, hfirst⟩ q hq
    obtain ⟨k, rfl⟩ := s.exists_arb_add q
    have hji : i.val = j := by
      have := congrArg Fin.val (add_left_cancel (a := s.arb) ((List.getElem_map ..).symm.trans hr))
      simpa using this.symm
    rw [State.turnsAway_arb_add, State.turnsAway_arb_add, hji] at hq
    simpa using hfirst k.val hq
  · have := h (s.arb + ⟨j, by omega⟩) (by rwa [State.turnsAway_arb_add, State.turnsAway_arb_add])
    simpa using this

theorem State.grant_eq_none : s.grant = none ↔ ∀ r, s.waiting r = false := by
  rw [State.grant, List.find?_eq_none]
  refine ⟨fun h r => ?_, fun h r _ => by simp [h r]⟩
  obtain ⟨i, rfl⟩ := s.exists_arb_add r
  simpa using h (s.arb + i) (List.mem_map.mpr ⟨i, List.mem_finRange i, rfl⟩)

/-- The places from just after a nearer requester to a farther one are fewer than from the pointer. -/
theorem sub_succ_lt : ∀ i j : Fin 9, i < j → (j - (i + 1)).val < j.val := by decide

/-- A grant to another brings a waiting requester nearer. -/
theorem State.turnsAway_after_grant {r q : Requester} (hw : s.waiting r = true) (hg : s.grant = some q)
    (hne : q ≠ r) : State.turnsAway { s with arb := q + 1 } r < s.turnsAway r := by
  obtain ⟨j, rfl⟩ := s.exists_arb_add r
  obtain ⟨i, rfl⟩ := s.exists_arb_add q
  have first := (State.grant_eq_some.mp hg).2 (s.arb + j)
  rw [State.turnsAway_arb_add, State.turnsAway_arb_add] at first
  have before : i < j := by
    refine lt_of_le_of_ne (not_lt.mp fun hji => ?_) fun hij => hne (by rw [hij])
    rw [first hji] at hw
    cases hw
  have away : State.turnsAway { s with arb := s.arb + i + 1 } (s.arb + j) = (j - (i + 1)).val := by
    rw [State.turnsAway, add_assoc, add_sub_add_left_eq_sub]
  rw [away, State.turnsAway_arb_add]
  exact sub_succ_lt i j before

end

/-- Settles O55: who waits, who is granted, and how each grant brings the others nearer. -/
theorem arbiterGrants : Obligations.ArbiterGrants := fun s =>
  ⟨State.waiting_port, State.waiting_mailbox, fun _ => State.grant_eq_some, State.grant_eq_none,
    fun r => (r - s.arb).isLt, fun _ _ => State.turnsAway_after_grant, fun _ => rfl,
    fun _ _ _ => State.onGrant_of_due⟩

end Sys2Proof.Machine
end

section
/-! PROOF. TRIM (R87 to R92): its checks on lanes, a transition into STALE of an applied record on an
ONLINE port, the service case by case, and O41. -/

namespace Sys2Proof.Machine

/-! ### The checks on every lane (R90, R91) -/

/-- A check fails where it fails on some lane with its delta. -/
theorem onEveryLane_eq_false {check : LaneEntry → Int → Bool} {lanes : List LaneEntry}
    {deltas : List Int} : onEveryLane check lanes deltas = false ↔
      ∃ (j : Nat) (l : LaneEntry) (d : Int), lanes[j]? = some l ∧ deltas[j]? = some d ∧ check l d = false := by
  simp only [onEveryLane, List.all_eq_false, List.mem_iff_getElem?, List.getElem?_zipWith_eq_some]
  constructor
  · rintro ⟨_, ⟨j, l, d, hl, hd, rfl⟩, h⟩
    exact ⟨j, l, d, hl, hd, by simpa using h⟩
  · rintro ⟨j, l, d, hl, hd, h⟩
    exact ⟨_, ⟨j, l, d, hl, hd, rfl⟩, by simp [h]⟩

theorem trimInRange_eq_false {l : LaneEntry} {d : Int} : trimInRange l d = false ↔
    (l.cond = .failed ∧ d ≠ 0) ∨ (l.tap : Int) + d < 0 ∨ 63 < (l.tap : Int) + d := by
  rw [Bool.eq_false_iff, ne_eq, trimInRange]
  simp only [Bool.and_eq_true, Bool.or_eq_true, bne_iff_ne, beq_iff_eq, decide_eq_true_eq, not_and_or,
    not_or, ne_eq, not_not, not_le, or_assoc]

theorem trimWithin_eq_false {limit : Nat} {l : LaneEntry} {d : Int} :
    trimWithin limit l d = false ↔ limit < (l.trim + d).natAbs := by
  simp [trimWithin]

/-! ### The first check that fails (R87) -/

section
variable {s : State} {k : Key} {r : Record} {g : Nat} {deltas : List Int}

theorem State.trimCheck_of_busy (h : s.jobRunning k = true) : s.trimCheck k r g deltas = some .busy :=
  if_pos h

theorem State.trimCheck_of_stale (hb : ¬s.jobRunning k = true) (h : g ≠ r.gen) :
    s.trimCheck k r g deltas = some .staleGeneration := by
  rw [State.trimCheck, if_neg hb, if_pos h]

theorem State.trimCheck_of_unapplied (hb : ¬s.jobRunning k = true) (hg : g = r.gen)
    (h : r.applied ≠ some r.gen) : s.trimCheck k r g deltas = some .notApplied := by
  rw [State.trimCheck, if_neg hb, if_neg (not_not.mpr hg), if_pos h]

theorem State.trimCheck_of_unfit (hb : ¬s.jobRunning k = true) (hg : g = r.gen)
    (ha : r.applied = some r.gen) (h : r.cond ≠ .current) :
    s.trimCheck k r g deltas = some .notCurrent := by
  rw [State.trimCheck, if_neg hb, if_neg (not_not.mpr hg), if_neg (not_not.mpr ha), if_pos h]

/-- Past the checks on the record, those on the lanes decide. -/
theorem State.trimCheck_of_fit (hb : ¬s.jobRunning k = true) (hg : g = r.gen)
    (ha : r.applied = some r.gen) (hc : r.cond = .current) : s.trimCheck k r g deltas =
      if onEveryLane trimInRange r.lanes deltas = false then some .outOfRange
      else if onEveryLane (trimWithin (s.budget k.cls).trimLimit) r.lanes deltas = false then
        some .trimLimit
      else none := by
  rw [State.trimCheck, if_neg hb, if_neg (not_not.mpr hg), if_neg (not_not.mpr ha),
    if_neg (not_not.mpr hc)]
  simp only [Bool.not_eq_true']

end

/-! ### An applied record of an ONLINE port turned STALE (R43 to R45) -/

section
variable {s : State} {i : SlotId} {r : Record}

/-- On a port that is not OFFLINE, a transition into STALE asks for training or raises STALE_SEEN
(R45). -/
theorem State.staleRequest_of_attached (ho : (s.port r.key.port).state ≠ .offline) :
    s.staleRequest r = { s with
      autoReqs := if (s.port r.key.port).autotrain = true ∧ r.holdOff = false then
        s.autoReqs ++ [r.key] else s.autoReqs
      events := if (s.port r.key.port).autotrain = true then s.events else s.events ||| 0x20#8 } := by
  rw [State.staleRequest]
  cases (s.port r.key.port).autotrain with
  | false => simp [State.raise, EventFlag.mask, EventFlag.bit]
  | true => cases r.holdOff <;> simp [ho]

/-- A record with an applied generation, on an ONLINE port, turned STALE: its NOTICE is placed (R44),
and an AUTO request made or STALE_SEEN raised (R45). -/
theorem State.setCondition_stale_of_online (hr : s.slot i = .occupied r) (hc : r.cond ≠ .stale)
    (ha : r.applied.isSome = true) (ho : (s.port r.key.port).state = .online) :
    s.setCondition i .stale = { s with
      slots := s.slots.set i (.occupied { r with cond := .stale })
      ports := s.ports.set r.key.port ((s.port r.key.port).placeNotice r.key.cls .stale r.gen)
      autoReqs := if (s.port r.key.port).autotrain = true ∧ r.holdOff = false then
        s.autoReqs ++ [r.key] else s.autoReqs
      events := if (s.port r.key.port).autotrain = true then s.events else s.events ||| 0x20#8 } := by
  have noticed : (s.setSlot i (.occupied { r with cond := .stale })).notify { r with cond := .stale }
      .stale r.gen = (s.setSlot i (.occupied { r with cond := .stale })).modPort r.key.port
        (Port.placeNotice r.key.cls .stale r.gen) := if_pos ⟨ha, ho⟩
  have turned : s.setCondition i .stale = (s.setSlot i (.occupied { r with cond := .stale })).turnedStale
      { r with cond := .stale } := by
    simp only [State.setCondition, hr]
    exact if_pos ⟨trivial, hc⟩
  rw [turned, State.turnedStale, noticed, State.staleRequest_of_attached (by simp [ho])]
  simp only [State.port_modPort_self, Port.placeNotice_autotrain, State.port_setSlot]
  rfl

/-- Behind an answer on its port's list, a record turned STALE has its NOTICE placed after the answer (R44,
R91). -/
theorem State.answer_setCondition_stale {tag : Byte} {status : Status} {gen : Option Nat}
    {flags : Option JobFlags} (hr : s.slot i = .occupied r) (hc : r.cond ≠ .stale)
    (ha : r.applied.isSome = true) (ho : (s.port r.key.port).state = .online) :
    (s.answer r.key.port tag status gen flags).setCondition i .stale = { s with
      slots := s.slots.set i (.occupied { r with cond := .stale })
      ports := s.ports.set r.key.port <| Port.placeNotice r.key.cls .stale r.gen <|
        (s.port r.key.port).place ⟨.answer tag status gen flags, none⟩
      autoReqs := if (s.port r.key.port).autotrain = true ∧ r.holdOff = false then
        s.autoReqs ++ [r.key] else s.autoReqs
      events := if (s.port r.key.port).autotrain = true then s.events else s.events ||| 0x20#8 } := by
  have placed : (s.answer r.key.port tag status gen flags).port r.key.port =
      (s.port r.key.port).place ⟨.answer tag status gen flags, none⟩ := State.port_modPort_self ..
  rw [State.setCondition_stale_of_online (s := s.answer r.key.port tag status gen flags) hr hc ha
    (by simp [placed, ho])]
  simp only [placed, Port.place_autotrain]
  simp only [State.answer, State.emit_eq, Table.set_set, plainEntry]

end

/-! ### The service (R87, R91, R92) -/

section
variable {s : State} {k : Key} {tag : Byte} {g : Nat} {deltas : List Int} {i : SlotId} {r : Record}

theorem State.serveTrim_of_none (h : s.recordOf k = none) :
    s.serveTrim k tag g deltas = s.answerAbsent k tag := by rw [State.serveTrim, h]

theorem State.serveTrim_of_busy (h : s.recordOf k = some (i, r))
    (hc : s.trimCheck k r g deltas = some .busy) : s.serveTrim k tag g deltas =
      (s.touch i).answer k.port tag .busy (some r.gen) (some (s.flags k)) := by
  simp only [State.serveTrim, h, hc]

/-- A refusal other than BUSY and TRIM_LIMIT is answered, and nothing more (R87). -/
theorem State.serveTrim_of_refused {status : Status} (h : s.recordOf k = some (i, r))
    (hc : s.trimCheck k r g deltas = some status) (hb : status ≠ .busy) (hl : status ≠ .trimLimit) :
    s.serveTrim k tag g deltas = (s.touch i).answer k.port tag status (some r.gen) none := by
  simp only [State.serveTrim, h, hc]

/-- TRIM_LIMIT is answered, and the record turns STALE behind the answer (R91). -/
theorem State.serveTrim_of_overLimit {q : Record} (h : s.recordOf k = some (i, r))
    (hc : s.trimCheck k r g deltas = some .trimLimit) (hcond : r.cond = .current)
    (ha : r.applied.isSome = true) (ho : (s.port k.port).state = .online)
    (hq : (s.touch i).slot i = .occupied q) : s.serveTrim k tag g deltas = { s.touch i with
      slots := (s.touch i).slots.set i (.occupied { q with cond := .stale })
      ports := (s.touch i).ports.set k.port <| Port.placeNotice k.cls .stale r.gen <|
        ((s.touch i).port k.port).place ⟨.answer tag .trimLimit (some r.gen) none, none⟩
      autoReqs := if (s.port k.port).autotrain = true ∧ r.holdOff = false then
        (s.touch i).autoReqs ++ [k] else (s.touch i).autoReqs
      events := if (s.port k.port).autotrain = true then (s.touch i).events
        else (s.touch i).events ||| 0x20#8 } := by
  obtain rfl := State.key_of_recordOf h
  have stamped := Slot.occupied.inj ((State.slot_touch (State.recordOf_eq_some.mp h).2).symm.trans hq)
  have served : s.serveTrim r.key tag g deltas = ((s.touch i).answer r.key.port tag .trimLimit
      (some r.gen) none).setCondition i .stale := by simp only [State.serveTrim, h, hc]
  have port := State.Fits.port_touch s i r.key.port
  have placed := State.answer_setCondition_stale (tag := tag) (status := .trimLimit) (gen := some r.gen)
    (flags := none) hq (by simp [← stamped, hcond]) (by simpa [← stamped] using ha)
    (by simpa [← stamped, port] using ho)
  subst stamped
  rw [port] at placed ⊢
  exact served.trans placed

/-- A TRIM that passes leaves its record trimmed, and DONE with the new generation (R92). -/
theorem State.serveTrim_of_passed {q : Record} (h : s.recordOf k = some (i, r))
    (hc : s.trimCheck k r g deltas = none) (hq : (s.touch i).slot i = .occupied q) :
    s.serveTrim k tag g deltas = { s.touch i with
      slots := (s.touch i).slots.set i (.occupied { q with
        lanes := trimmedLanes r.lanes deltas, gen := nextGen r.gen, applied := some (nextGen r.gen) })
      ports := (s.touch i).ports.set k.port <| ((s.touch i).port k.port).place
        ⟨.answer tag .done (some (nextGen r.gen)) none, none⟩ } := by
  obtain rfl := Slot.occupied.inj ((State.slot_touch (State.recordOf_eq_some.mp h).2).symm.trans hq)
  simp only [State.serveTrim, h, hc, hq]
  rfl

end

/-- A port whose request is due is ONLINE, since it waits for its grant (R76). -/
theorem State.RequestDue.online {s : State} {p : PortId} {tag : Byte} {body : ReqBody}
    (h : s.RequestDue p tag body) : (s.port p).state = .online :=
  ((State.waiting_port p).mp (State.grant_eq_some.mp h.2).1).1

theorem exec_trimService {s : State} {p : PortId} {tag : Byte} {c : ClassId} {g : Nat}
    {deltas : List Int} (h : s.RequestDue p tag (.trim c g deltas))
    (hen : s.classEnabled ⟨p, c⟩ = true) :
    exec (.trimService p) s = .next ((s.takeHead p).serveTrim ⟨p, c⟩ tag g deltas) :=
  congrArg Host.Outcome.next ((State.serve_of_due (a := (c, g, deltas)) h (by rfl)).trans
    (State.ifEnabled_of_enabled hen))

/-- Settles O41: the service at the grant, by the first check that fails. -/
theorem trimService : Obligations.TrimService := by
  intro s p tag c g ds hdue hen
  rw [exec_trimService hdue hen]
  refine ⟨fun hr => congrArg _ (State.serveTrim_of_none (s := s.takeHead p) hr), ?_⟩
  rintro i r hr t fails rfl hfails busy stale unapplied unfit outOfRange overLimit
  have found : (s.takeHead p).recordOf ⟨p, c⟩ = some (i, r) := hr
  have range : outOfRange ↔ onEveryLane trimInRange r.lanes ds = false := by
    simp only [outOfRange, hfails, onEveryLane_eq_false, trimInRange_eq_false]
  have limit : overLimit ↔
      onEveryLane (trimWithin ((s.takeHead p).budget c).trimLimit) r.lanes ds = false := by
    simp only [overLimit, hfails, onEveryLane_eq_false, trimWithin_eq_false]
    rfl
  have onLanes (hb : ¬busy) (hg : ¬stale) (ha : ¬unapplied) (hc : ¬unfit) :=
    State.trimCheck_of_fit (s := s.takeHead p) (k := ⟨p, c⟩) (deltas := ds) hb (not_not.mp hg)
      (not_not.mp ha) (not_not.mp hc)
  refine ⟨fun hb => ?_, fun hb hg => ?_, fun hb hg ha => ?_, fun hb hg ha hc => ?_,
    fun hb hg ha hc ho => ?_, fun q hq hb hg ha hc ho => ⟨fun hl => ?_, fun hl => ?_⟩⟩
  · exact congrArg _ (State.serveTrim_of_busy found (State.trimCheck_of_busy hb))
  · have check := State.trimCheck_of_stale (deltas := ds) hb hg
    exact congrArg _ (State.serveTrim_of_refused found check nofun nofun)
  · have check := State.trimCheck_of_unapplied (deltas := ds) hb (not_not.mp hg) ha
    exact congrArg _ (State.serveTrim_of_refused found check nofun nofun)
  · have check := State.trimCheck_of_unfit (deltas := ds) hb (not_not.mp hg) (not_not.mp ha) hc
    exact congrArg _ (State.serveTrim_of_refused found check nofun nofun)
  · have check := (onLanes hb hg ha hc).trans (if_pos (range.mp ho))
    exact congrArg _ (State.serveTrim_of_refused found check nofun nofun)
  · have check := (onLanes hb hg ha hc).trans
      ((if_neg (mt range.mpr ho)).trans (if_pos (limit.mp hl)))
    have applied : r.applied.isSome = true := Option.isSome_of_eq_some (not_not.mp ha)
    have taken : (s.takeHead p).port p = { s.port p with reqs := (s.port p).reqs.tail } :=
      Table.get_set_self s.ports p _
    rw [State.serveTrim_of_overLimit found check (not_not.mp hc) applied (by rw [taken]; exact hdue.online)
      hq, taken]
  · have check := (onLanes hb hg ha hc).trans
      ((if_neg (mt range.mpr ho)).trans (if_neg (mt limit.mpr hl)))
    exact congrArg _ (State.serveTrim_of_passed found check hq)

end Sys2Proof.Machine
end

section
/-! PROOF. The enqueue and its merge, CANCEL_TRAINING, and the rescan: O23, O24 and O51. -/

namespace Sys2Proof.Machine

/-! ### Joining an urgency group (R103) -/

section
variable {j : Job} {q : List Job}

theorem isUrgent_of_urgent (h : j.urgency = .urgent) : j.isUrgent = true := by simp [Job.isUrgent, h]

theorem isUrgent_of_routine (h : j.urgency = .routine) : j.isUrgent = false := by
  simp [Job.isUrgent, h]

theorem joinTail_of_urgent (h : j.urgency = .urgent) (q : List Job) :
    joinTail j q = q.filter Job.isUrgent ++ [j] ++ q.filter (fun x => !x.isUrgent) := by
  simp [joinTail, isUrgent_of_urgent h]

theorem joinTail_of_routine (hq : UrgentFirst q) (h : j.urgency = .routine) :
    joinTail j q = q ++ [j] := by
  simp only [joinTail, isUrgent_of_routine h, Bool.false_eq_true, if_false, urgentFirst_iff.mpr hq]

theorem joinFront_of_urgent (hq : UrgentFirst q) (h : j.urgency = .urgent) : joinFront j q = j :: q := by
  simp only [joinFront, isUrgent_of_urgent h, if_true, List.cons_append, urgentFirst_iff.mpr hq]

theorem joinFront_of_routine (h : j.urgency = .routine) (q : List Job) :
    joinFront j q = q.filter Job.isUrgent ++ [j] ++ q.filter (fun x => !x.isUrgent) := by
  simp [joinFront, isUrgent_of_routine h]

end

/-! ### A QUEUED job's place (R103) -/

section
variable {j j' : Job} {before after : List Job}

/-- The other QUEUED jobs of a sound queue have other keys. -/
theorem State.QueueSound.key_ne_of_place {s : State} (h : s.QueueSound)
    (hq : s.queued = before ++ j :: after) : ∀ x ∈ before ++ after, x.key ≠ j.key := by
  have hd : ((before ++ j :: after).map Job.key).Nodup := by
    have keys := (s.queueSound_iff.mp h).keys
    rw [List.map_append, List.nodup_append, hq] at keys
    exact keys.1
  have apart := List.nodup_cons.mp ((List.perm_middle.map Job.key).nodup_iff.mp hd)
  exact fun x hx he => apart.1 (List.mem_map.mpr ⟨x, hx, he⟩)

theorem withoutKey_of_place (h : ∀ x ∈ before ++ after, x.key ≠ j.key) :
    withoutKey j.key (before ++ j :: after) = before ++ after := by
  rw [← withoutKey_eq_self h]
  simp [withoutKey]

theorem find?_key_of_place (h : ∀ x ∈ before ++ after, x.key ≠ j.key) :
    (before ++ j :: after).find? (fun x => x.key == j.key) = some j := by
  have passed : before.find? (fun x => x.key == j.key) = none :=
    List.find?_eq_none.mpr fun x hx => by simpa using h x (List.mem_append_left _ hx)
  simp [List.find?_append, passed]

/-- A merge that keeps the job's place changes that job alone (R106). -/
theorem map_merge_of_place (h : ∀ x ∈ before ++ after, x.key ≠ j.key) :
    (before ++ j :: after).map (fun x => if x.key = j.key then j' else x) = before ++ j' :: after := by
  have kept : ∀ l : List Job, (∀ x ∈ l, x.key ≠ j.key) →
      l.map (fun x => if x.key = j.key then j' else x) = l := fun l hl =>
    (List.map_congr_left fun x hx => if_neg (hl x hx)).trans (List.map_id' l)
  rw [List.map_append, List.map_cons, if_pos rfl,
    kept before fun x hx => h x (List.mem_append_left _ hx),
    kept after fun x hx => h x (List.mem_append_right _ hx)]

end

/-! ### The cases of an enqueue (R104, R106) -/

section
variable {s : State} {k : Key}

theorem State.enqueue_of_running (hr : s.jobRunning k = true) (o : JobOrigin) (u : Urgency) :
    s.enqueue k o u = (s.decide, .alreadyRunning) := by
  rw [State.enqueue, if_pos hr]

/-- An enqueue that meets the key's QUEUED job merges into it (R106). -/
theorem State.enqueue_of_queued {j : Job} (hr : s.jobRunning k = false)
    (hj : s.queued.find? (fun x => x.key == k) = some j) (o : JobOrigin) (u : Urgency) :
    s.enqueue k o u =
      if u = .urgent ∧ j.urgency = .routine then
        ({ s with
          decision := true
          queued := joinTail { j with origin := mergeOrigin j.origin o, urgency := .urgent }
            (withoutKey k s.queued) }, .raised)
      else
        ({ s with
          decision := true
          queued := s.queued.map fun x =>
            if x.key = k then { j with origin := mergeOrigin j.origin o } else x }, .alreadyQueued) := by
  simp only [State.enqueue, hr, Bool.false_eq_true, if_false, hj]
  rfl

/-- An enqueue of a key without a job makes one while an entry is free (R104). -/
theorem State.enqueue_of_no_job (h : s.hasJob k = false) (o : JobOrigin) (u : Urgency) :
    s.enqueue k o u =
      if Config.queueEntries ≤ s.entriesHeld then (s.decide, .trainingFull)
      else ({ s with decision := true, queued := joinTail ⟨k, o, u, 0⟩ s.queued }, .queued) := by
  obtain ⟨hq, hr⟩ := Bool.or_eq_false_iff.mp h
  have absent : s.queued.find? (fun x => x.key == k) = none := by
    simpa [State.jobQueued] using hq
  simp only [State.enqueue, hr, Bool.false_eq_true, if_false, absent]
  rfl

/-- An AUTO enqueue refused TRAINING_FULL raises QUEUE_FULL (R104). -/
theorem State.enqueueAuto_eq_ite (s : State) (k : Key) : s.enqueueAuto k =
    if (s.enqueue k .auto .routine).2 = .trainingFull then
      { (s.enqueue k .auto .routine).1 with events := s.events ||| 0x10#8 }
    else (s.enqueue k .auto .routine).1 := by
  split_ifs with h
  · rw [State.enqueueAuto_of_full h, State.enqueue_of_full h]
    rfl
  · exact State.enqueueAuto_of_taken h

end

/-- Settles O23: the key's job is RUNNING, QUEUED at its place, or not there; the two groups of an ordered
queue are the queue. -/
theorem enqueue : Obligations.Enqueue := by
  intro s k o u
  refine ⟨fun hr => State.enqueue_of_running hr o u, fun hr hq hfull => ?_, fun hr hq hroom => ?_,
    fun before j after hr hs hk hq => ?_, s.enqueueAuto_eq_ite k, fun j q hq => ?_⟩
  · rw [State.enqueue_of_no_job (by rw [State.hasJob, hq, hr]; rfl)]
    exact if_pos hfull
  · rw [State.enqueue_of_no_job (by rw [State.hasJob, hq, hr]; rfl)]
    exact if_neg (not_le.mpr hroom)
  · subst hk
    have others := hs.key_ne_of_place hq
    have met := State.enqueue_of_queued hr (hq ▸ find?_key_of_place others) o u
    refine ⟨fun hu hj => ?_, fun hkept => ?_⟩
    · rw [met, if_pos ⟨hu, hj⟩, hq, withoutKey_of_place others]
      rfl
    · have place : ¬(u = .urgent ∧ j.urgency = .routine) := by
        rintro ⟨rfl, hj⟩
        simp [hj] at hkept
      rw [met, if_neg place, hq, map_merge_of_place others]
      rfl
  · have ordered := urgentFirst_iff.mp hq
    exact ⟨fun h => joinTail_of_urgent h q, joinTail_of_routine ordered, joinFront_of_urgent ordered,
      fun h => joinFront_of_routine h q⟩

/-! ### CANCEL_TRAINING (R119, R181) -/

section
variable {s : State} {c : CmdCopy} {k : Key}

theorem State.carryCancelTraining_of_no_key (h : c.key = none) :
    s.carryCancelTraining c = s.endCommand .badValue := by
  simp only [State.carryCancelTraining, h]

theorem State.carryCancelTraining_of_key (h : c.key = some k) : s.carryCancelTraining c =
    if s.hasJob k then (s.cancelJobs k).endCommand .done else s.endCommand .noJob := by
  simp only [State.carryCancelTraining, h]

end

/-- Settles O24: the removal of the key's training, where it has a job. -/
theorem cancelTraining : Obligations.CancelTraining := by
  refine ⟨fun s h => ?_, fun s c hc hcode => ?_⟩
  · rcases hc : s.mb.copy with _ | c
    · exact congrArg _ (State.onCommand_of_idle hc)
    · exact congrArg _ (State.onCommand_of_other hc (h c hc))
  · have carried : exec .cancelTraining s = .next (s.carryCancelTraining c) :=
      congrArg _ (State.onCommand_of_code hc hcode)
    rw [carried]
    refine ⟨fun hk => congrArg _ (State.carryCancelTraining_of_no_key hk), fun k hk hq h1 => ?_⟩
    rw [State.carryCancelTraining_of_key hk]
    refine ⟨fun hj => by simp [hj], fun hj => ⟨s.cancelJobs k, by simp [hj], ?_⟩⟩
    exact s.cancelJobs_spec k hq h1

/-! ### RESCAN (R109) -/

/-- With one slot for each key, no two records have the same key. -/
theorem State.OneSlotPerKey.nodup_records {s : State} (h : s.OneSlotPerKey) :
    (s.records.map Record.key).Nodup := by
  have keys : s.records.map Record.key =
      (List.finRange 24).filterMap fun i => (s.slot i).record?.map Record.key := by
    rw [State.records, Table.rows_eq, List.filterMap_map, List.map_filterMap]
    rfl
  rw [keys]
  refine (List.nodup_finRange 24).filterMap fun i j k hi hj => ?_
  obtain ⟨r, hr, rfl⟩ := Option.map_eq_some_iff.mp hi
  obtain ⟨q, hq, hk⟩ := Option.map_eq_some_iff.mp hj
  have key : ∀ {x : Slot} {r : Record}, x.record? = some r → x.key? = some r.key := by
    rintro (_ | _ | _) r hr <;> cases hr
    rfl
  exact h i j (by simp [key hr]) (by rw [key hr, key hq, hk])

/-- The walk's conditions on a record are those of the statement (R109). -/
theorem State.rescanWants_eq (s : State) (r : Record) : s.rescanWants r = s.WantsTraining r := by
  have job : s.hasJob r.key = (s.queued ++ s.running).any fun j => j.key == r.key := by
    rw [Bool.eq_iff_iff, State.hasJob, Bool.or_eq_true, State.jobQueued_iff, State.jobRunning_iff,
      List.any_append, Bool.or_eq_true]
    simp
  rw [State.rescanWants, State.WantsTraining, job]

/-- A record that is wanted has no job. -/
theorem State.hasJob_of_wants {s : State} {r : Record} (h : s.WantsTraining r = true) :
    s.hasJob r.key = false := by
  rw [← State.rescanWants_eq, State.rescanWants, Bool.and_eq_true, Bool.not_eq_true'] at h
  exact h.2

/-- The job a rescan makes for a record (R109). -/
def Record.autoJob (r : Record) : Job := ⟨r.key, .auto, .routine, 0⟩

/-- The entries free (R103). -/
def State.entriesFree (s : State) : Nat := 16 - (s.queued.length + s.running.length)

/-- The AUTO enqueue of a wanted record puts its job at the tail while an entry is free (R104, R109). -/
theorem State.enqueue_of_wanted {s : State} {r : Record} (hs : s.QueueSound)
    (hw : s.WantsTraining r = true) (hroom : ¬Config.queueEntries ≤ s.entriesHeld) :
    (s.enqueue r.key .auto .routine).1 =
      { s with decision := true, queued := s.queued ++ [r.autoJob] } := by
  rw [State.enqueue_of_no_job (State.hasJob_of_wants hw), if_neg hroom,
    joinTail_of_routine (s.queueSound_iff.mp hs).urgent rfl]
  rfl

/-- A job for one record leaves the records of other keys wanted as they were. -/
theorem State.wantsTraining_queue {s : State} {r q : Record} (h : q.key ≠ r.key) :
    State.WantsTraining { s with decision := true, queued := s.queued ++ [r.autoJob] } q =
      s.WantsTraining q := by
  have other : (r.autoJob.key == q.key) = false := by simpa [Record.autoJob] using h.symm
  change (_ && !(((s.queued ++ [r.autoJob]) ++ s.running).any fun j => j.key == q.key)) = (_ && _)
  simp only [List.any_append, List.any_cons, List.any_nil, other, Bool.or_false]
  rfl

/-- The walk of a rescan queues a job for each record wanted, as far as entries are free (R109). -/
theorem State.queued_rescanWalk {s : State} {l : List Record} (hs : s.QueueSound)
    (hl : (l.map Record.key).Nodup) : (s.rescanWalk l).queued =
      s.queued ++ ((l.filter s.WantsTraining).take s.entriesFree).map Record.autoJob := by
  induction l generalizing s with
  | nil => simp [State.rescanWalk]
  | cons r l ih =>
    obtain ⟨hr, hl⟩ := List.nodup_cons.mp hl
    rw [State.rescanWalk, State.rescanWants_eq]
    by_cases hw : s.WantsTraining r = true
    · rw [if_pos hw, List.filter_cons_of_pos hw]
      by_cases hfull : Config.queueEntries ≤ s.entriesHeld
      · have none : s.entriesFree = 0 := Nat.sub_eq_zero_of_le (s.entriesHeld_eq ▸ hfull)
        simp [hfull, none]
      · have sound := hs.enqueue r.key .auto .routine
        rw [State.enqueue_of_wanted hs hw hfull] at sound
        rw [if_neg hfull, State.enqueue_of_wanted hs hw hfull, ih sound hl]
        generalize ht : ({ s with decision := true, queued := s.queued ++ [r.autoJob] } : State) = t
        have wanted : l.filter t.WantsTraining = l.filter s.WantsTraining :=
          List.filter_congr fun q hq => ht ▸ State.wantsTraining_queue fun hk =>
            hr (hk ▸ List.mem_map_of_mem hq)
        have free : s.entriesFree = t.entriesFree + 1 := by
          have held := s.entriesHeld_eq
          have length : t.queued.length = s.queued.length + 1 := by simp [← ht]
          have running : t.running = s.running := by rw [← ht]; rfl
          simp only [State.entriesFree, length, running]
          simp only [Config.queueEntries] at hfull
          omega
        have queued : t.queued = s.queued ++ [r.autoJob] := by rw [← ht]
        rw [wanted, free, queued, List.take_succ_cons, List.map_cons, List.append_assoc]
        rfl
    · rw [if_neg hw, List.filter_cons_of_neg hw]
      exact ih hs hl

theorem State.rescan_of_none {s : State} (h : s.rescans = 0) : s.rescan = s := by
  simp only [State.rescan, h]

theorem State.rescan_of_due {s : State} {n : Nat} (h : s.rescans = n + 1) :
    s.rescan = (State.rescanWalk { s with rescans := n } s.records).decide := by
  simp only [State.rescan, h]

/-- Settles O51: the walk over the records in slot order, then the start decision. -/
theorem rescan : Obligations.Rescan := by
  intro s hs h1
  refine ⟨fun h => congrArg _ (State.rescan_of_none h), fun n h => ?_⟩
  have walked := State.queued_rescanWalk (s := { s with rescans := n }) hs h1.nodup_records
  refine (congrArg Host.Outcome.next (State.rescan_of_due h)).trans ?_
  rw [State.rescanWalk_eq, walked]
  rfl

end Sys2Proof.Machine
end

section
/-! PROOF. The admission parameters and the start decision: O9 and O50. -/

namespace Sys2Proof.Machine

/-! ### Spacings (R112 to R114) -/

section
variable (now spacing : Nat) (last : Option Nat)

theorem spacingMoment_eq : spacingMoment now last spacing =
    (last.map fun t => t + spacing * 25000).filter fun m => now < m := by
  cases last with
  | none => rfl
  | some t =>
    simp only [spacingMoment, Option.map_some, Option.filter, decide_eq_true_eq]
    rfl

/-- The moment set at a start lies ahead unless the spacing is 0 (R113, R116). -/
theorem spacingMoment_now : spacingMoment now (some now) spacing =
    if spacing = 0 then none else some (now + spacing * 25000) := by
  by_cases h : spacing = 0
  · simp [spacingMoment, ms, h]
  · simp [spacingMoment, ms, Config.cyclesPerMs, h, Nat.pos_of_ne_zero h]

theorem spacingMet_iff : spacingMet now last spacing = true ↔
    ∀ t, last = some t → t + spacing * 25000 ≤ now := by
  cases last with
  | none => simp [spacingMet]
  | some t =>
    simp only [spacingMet, decide_eq_true_eq, Option.some.injEq, forall_eq']
    rfl

end

/-! ### Writes of the global parameters (R114, R167) -/

theorem State.writeSpaceAny_eq (s : State) (v : Byte) : s.writeSpaceAny v =
    if v.toNat ≤ 63 then
      { s with
        spaceAny := v.toNat, decision := true
        spaceAnyTimer := (s.lastAny.map fun t => t + v.toNat * 25000).filter fun m => s.now < m }
    else s := by
  rw [State.writeSpaceAny, spacingMoment_eq]
  rfl

theorem State.writeSpaceGroup_eq (s : State) (v : Byte) : s.writeSpaceGroup v =
    if v.toNat ≤ 63 then
      { s with
        spaceGroup := v.toNat, decision := true
        spaceGroupTimer := s.lastGroup.map fun last =>
          (last.map fun t => t + v.toNat * 25000).filter fun m => s.now < m }
    else s := by
  simp only [State.writeSpaceGroup, spacingMoment_eq]
  rfl

/-- Settles O9: each write as its definition says, on the settled state. -/
theorem parameterWrites : Obligations.ParameterWrites := fun v s =>
  ⟨rfl, rfl, congrArg _ (s.settle.writeSpaceAny_eq v), congrArg _ (s.settle.writeSpaceGroup_eq v), rfl,
    rfl⟩

/-! ### Eligibility and admission (R111, R112) -/

section
variable {s : State} {j : Job} {v : Int}

theorem State.runningPort_eq_none {p : PortId} :
    s.runningPort p = none ↔ ∀ x ∈ s.running, x.key.port ≠ p := by
  rw [State.runningPort, State.runningWhere_eq_none]
  constructor
  · intro h x hx
    obtain ⟨e, c, hc, rfl⟩ := State.mem_running.mp hx
    simpa using h e c hc
  · intro h e c hc
    simpa using h c.job (State.mem_running.mpr ⟨e, c, hc, rfl⟩)

theorem State.startable_iff : s.startable j = some v ↔ s.MayStart j v := by
  rw [State.MayStart, ← State.runningPort_eq_none, ← spacingMet_iff, State.startable]
  cases (s.port j.key.port).temp with
  | unknown => simp
  | fresh w timer =>
    simp only [Option.isNone_iff_eq_none, Option.ite_none_right_eq_some, Option.some.injEq,
      TempState.fresh.injEq]
    tauto

theorem State.startable_eq_none : s.startable j = none ↔ ∀ v, ¬s.MayStart j v := by
  simp only [Option.eq_none_iff_forall_ne_some, ne_eq, State.startable_iff]

theorem State.idleEngine_eq (s : State) : s.idleEngine =
    if (s.engine 0).ctx = none then some 0 else if (s.engine 1).ctx = none then some 1 else none := by
  have both : List.finRange 2 = [0, 1] := rfl
  rw [State.idleEngine, both]
  cases h0 : (s.engine 0).ctx <;> cases h1 : (s.engine 1).ctx <;> simp [h0, h1]

theorem State.admits_iff : s.Admits ↔ s.idleEngine ≠ none ∧ s.admitting = true := by
  have idle : s.idleEngine ≠ none ↔ (s.engine 0).ctx = none ∨ (s.engine 1).ctx = none := by
    rw [State.idleEngine_eq]
    split_ifs with h0 h1 <;> simp [*]
  rw [State.Admits, idle, State.admitting, Bool.and_eq_true, decide_eq_true_eq, spacingMet_iff]

/-- The engine a start takes, where an admitted start takes one (R115). -/
theorem State.idleEngine_of_admits (h : s.Admits) :
    s.idleEngine = some (if (s.engine 0).ctx = none then 0 else 1) := by
  rw [State.idleEngine_eq]
  split_ifs with h0 h1
  · rfl
  · rfl
  · exact absurd h.1 (not_or.mpr ⟨h0, h1⟩)

/-! ### The decision (R115, R116) -/

theorem State.firstStartable_eq_none :
    s.firstStartable = none ↔ ∀ j ∈ s.queued, ∀ v, ¬s.MayStart j v := by
  simp only [State.firstStartable, List.findSome?_eq_none_iff, Option.map_eq_none_iff,
    State.startable_eq_none]

/-- The first job in queue order that may start (R115). -/
theorem State.firstStartable_of_place {before after : List Job} (hq : s.queued = before ++ j :: after)
    (hb : ∀ x ∈ before, ∀ w, ¬s.MayStart x w) (hj : s.MayStart j v) :
    s.firstStartable = some (j, v) := by
  have passed : before.findSome? (fun j => (s.startable j).map fun v => (j, v)) = none :=
    List.findSome?_eq_none_iff.mpr fun x hx => by
      rw [State.startable_eq_none.mpr (hb x hx), Option.map_none]
  rw [State.firstStartable, hq, List.findSome?_append, passed, Option.none_or, List.findSome?_cons,
    State.startable_iff.mpr hj, Option.map_some]

theorem State.decideStart_of_not_due (h : s.decision = false) : s.decideStart = s := by
  simp [State.decideStart, h]

/-- A decision without an idle engine, an admission or a job that may start is used up (R115). -/
theorem State.decideStart_of_refused (hd : s.decision = true)
    (h : ¬s.Admits ∨ s.firstStartable = none) : s.decideStart = { s with decision := false } := by
  have engine : State.idleEngine { s with decision := false } = s.idleEngine := rfl
  have first : State.firstStartable { s with decision := false } = s.firstStartable := rfl
  have admitting : State.admitting { s with decision := false } = s.admitting := rfl
  rw [State.admits_iff, not_and_or, not_not] at h
  simp only [State.decideStart, hd, if_true, engine, first, admitting]
  rcases h with (he | ha) | hf
  · simp only [he]
  · cases s.idleEngine <;> cases s.firstStartable <;> simp [ha]
  · cases s.idleEngine <;> simp only [hf]

theorem State.decideStart_of_start {e : EngineId} (hd : s.decision = true) (ha : s.Admits)
    (he : s.idleEngine = some e) (hf : s.firstStartable = some (j, v)) :
    s.decideStart = State.startJob { s with decision := false } e j v := by
  have engine : State.idleEngine { s with decision := false } = some e := he
  have first : State.firstStartable { s with decision := false } = some (j, v) := hf
  have admitting : State.admitting { s with decision := false } = true := (State.admits_iff.mp ha).2
  simp only [State.decideStart, hd, if_true, engine, first, admitting]

end

/-- What a start writes: the start records with their spacing timers, and the engine's context (R116). -/
theorem State.startJob_eq (s : State) (e : EngineId) (j : Job) (v : Int) : s.startJob e j v = { s with
    decision := true, queued := withoutKey j.key s.queued
    startList := s.startList ++ [s.now], lastAny := some s.now
    lastGroup := s.lastGroup.set (groupOf j.key.port) (some s.now)
    spaceAnyTimer := if s.spaceAny = 0 then none else some (s.now + s.spaceAny * 25000)
    spaceGroupTimer := s.spaceGroupTimer.set (groupOf j.key.port)
      (if s.spaceGroup = 0 then none else some (s.now + s.spaceGroup * 25000))
    engines := s.engines.set e { s.engine e with ctx := some (s.startCtx j v) } } := by
  rw [← spacingMoment_now, ← spacingMoment_now]
  rfl

/-- Settles O50: the first job that may start, on the engine that is idle. -/
theorem startDecision : Obligations.StartDecision := by
  intro s hs
  refine ⟨fun h => congrArg _ (State.decideStart_of_not_due h), fun hd h => ?_,
    fun before j after v e hd ha hq hb hj he => ?_⟩
  · have refused := State.decideStart_of_refused hd (h.imp_right State.firstStartable_eq_none.mpr)
    exact congrArg _ refused
  · have engine : s.idleEngine = some e := he ▸ State.idleEngine_of_admits ha
    have first := State.firstStartable_of_place hq hb hj
    have left : withoutKey j.key s.queued = before ++ after :=
      hq ▸ withoutKey_of_place (hs.key_ne_of_place hq)
    rw [← left]
    exact congrArg _ ((State.decideStart_of_start hd ha engine first).trans (State.startJob_eq _ e j v))

end Sys2Proof.Machine
end

section
/-! PROOF. The eye of a lane as its longest run of passing settings, and the conditions and lanes that
follow from it: the scan behind O36, and O37. -/

namespace Sys2Proof.Machine

/-! ### Runs of passing settings (R131) -/

theorem passRun_zero {passes : List Bool} {a : Nat} (h : a ≤ passes.length) : PassRun passes a 0 :=
  ⟨h, nofun⟩

theorem passRun_one {passes : List Bool} {a : Nat} (h : passes[a]? = some true) : PassRun passes a 1 := by
  obtain ⟨inside, _⟩ := List.getElem?_eq_some_iff.mp h
  refine ⟨inside, fun j hj => ?_⟩
  obtain rfl : j = 0 := by omega
  exact h

theorem PassRun.mem {passes : List Bool} {a n : Nat} (h : PassRun passes a n) (hn : 1 ≤ n) :
    true ∈ passes := List.mem_of_getElem? (h.2 0 hn)

/-- A run in a longer pass map that ends within the shorter one is a run of the shorter one. -/
theorem passRun_append_of_le {before rest : List Bool} {a n : Nat} (h : a + n ≤ before.length) :
    PassRun (before ++ rest) a n ↔ PassRun before a n := by
  have same (j : Nat) (hj : j < n) : (before ++ rest)[a + j]? = before[a + j]? :=
    List.getElem?_append_left (by omega)
  constructor
  · rintro ⟨-, hp⟩
    exact ⟨h, fun j hj => same j hj ▸ hp j hj⟩
  · rintro ⟨-, hp⟩
    exact ⟨by rw [List.length_append]; omega, fun j hj => (same j hj).trans (hp j hj)⟩

/-- A run that takes in the setting after `before` passes there, and goes on from a run of `before`. -/
theorem passRun_append_of_end {before : List Bool} {x : Bool} {a n : Nat} (h : a + n = before.length) :
    PassRun (before ++ [x]) a (n + 1) ↔ x = true ∧ PassRun before a n := by
  have last : (before ++ [x])[a + n]? = some x := by rw [h, List.getElem?_concat_length]
  have same (j : Nat) (hj : j < n) : (before ++ [x])[a + j]? = before[a + j]? :=
    List.getElem?_append_left (by omega)
  constructor
  · rintro ⟨-, hp⟩
    refine ⟨Option.some.inj (last.symm.trans (hp n (by omega))), h.le, fun j hj => ?_⟩
    exact same j hj ▸ hp j (by omega)
  · rintro ⟨rfl, -, hp⟩
    refine ⟨by rw [List.length_append, List.length_singleton]; omega, fun j hj => ?_⟩
    rcases Nat.lt_succ_iff_lt_or_eq.mp hj with hj | rfl
    · exact (same j hj).trans (hp j hj)
    · exact last

/-! ### The scan (R131) -/

/-- The run of `n` settings from `a` is the eye of the pass map: no run is longer, and none as long
starts lower; `n` is 0 where there is no run. -/
def IsEye (passes : List Bool) (a n : Nat) : Prop :=
  (1 ≤ n → PassRun passes a n) ∧
  ∀ a' n', 1 ≤ n' → PassRun passes a' n' → n' < n ∨ (n' = n ∧ a ≤ a')

/-- What `runScan` has found once it has passed over `before`: `cl` settings from `cs` on are the longest
run that reaches the end, and the run in (`bs`, `bl`) is the eye. -/
structure Scanned (before : List Bool) (cs cl bs bl : Nat) : Prop where
  start : 1 ≤ cl → cs + cl = before.length
  run : ∀ a, a + cl = before.length → PassRun before a cl
  fits : cl ≤ before.length
  last : ∀ a n, PassRun before a n → a + n = before.length → n ≤ cl
  eye : IsEye before bs bl

theorem scanned_nil : Scanned [] 0 0 0 0 where
  start := nofun
  run _ h := passRun_zero h.le
  fits := Nat.le_refl 0
  last _ n _ h := (Nat.le_add_left n _).trans h.le
  eye := ⟨nofun, fun _ _ hn h => absurd (h.mem hn) List.not_mem_nil⟩

namespace Scanned
variable {before : List Bool} {cs cl bs bl : Nat} (h : Scanned before cs cl bs bl)
include h

/-- A setting that does not pass ends the run in progress. -/
theorem snoc_false : Scanned (before ++ [false]) 0 0 bs bl := by
  have length : (before ++ [false]).length = before.length + 1 := List.length_append
  have ended {a n : Nat} (hr : PassRun (before ++ [false]) a (n + 1)) : a + (n + 1) ≤ before.length := by
    by_contra far
    have := hr.1
    exact Bool.false_ne_true ((passRun_append_of_end (by omega)).mp hr).1
  obtain ⟨found, best⟩ := h.eye
  refine ⟨nofun, fun a ha => passRun_zero ha.le, Nat.zero_le _, fun a n hr ha => ?_, fun hn => ?_,
    fun a n hn hr => ?_⟩
  · cases n with
    | zero => exact Nat.le_refl 0
    | succ n =>
      have := ended hr
      omega
  · exact (passRun_append_of_le (found hn).1).mpr (found hn)
  · obtain ⟨n, rfl⟩ := Nat.exists_eq_add_of_le' hn
    exact best a _ hn ((passRun_append_of_le (ended hr)).mp hr)

/-- A setting that passes makes the run in progress one longer, and the eye where it is now the longest. -/
theorem snoc_true {cs' : Nat} (hc : cs' + cl = before.length) :
    (bl < cl + 1 → Scanned (before ++ [true]) cs' (cl + 1) cs' (cl + 1)) ∧
    (¬bl < cl + 1 → Scanned (before ++ [true]) cs' (cl + 1) bs bl) := by
  have length : (before ++ [true]).length = before.length + 1 := List.length_append
  obtain ⟨found, best⟩ := h.eye
  have longer {a : Nat} (ha : a + cl = before.length) : PassRun (before ++ [true]) a (cl + 1) :=
    (passRun_append_of_end ha).mpr ⟨rfl, h.run a ha⟩
  have within {a n : Nat} (hn : 1 ≤ n) (hr : PassRun (before ++ [true]) a n) :
      PassRun before a n ∨ (a + n = before.length + 1 ∧ n ≤ cl + 1) := by
    by_cases ha : a + n ≤ before.length
    · exact .inl ((passRun_append_of_le ha).mp hr)
    · obtain ⟨n, rfl⟩ := Nat.exists_eq_add_of_le' hn
      have inside := hr.1
      have reaches : a + n = before.length := by omega
      have := h.last a n ((passRun_append_of_end reaches).mp hr).2 reaches
      exact .inr (by omega)
  have scanned {a n : Nat} (eye : IsEye (before ++ [true]) a n) :
      Scanned (before ++ [true]) cs' (cl + 1) a n := by
    refine ⟨fun _ => by omega, fun a ha => longer (by omega), by have := h.fits; omega,
      fun a n hr ha => ?_, eye⟩
    cases n with
    | zero => exact Nat.zero_le _
    | succ n =>
      have reaches : a + n = before.length := by omega
      have := h.last a n ((passRun_append_of_end reaches).mp hr).2 reaches
      omega
  refine ⟨fun hl => scanned ⟨fun _ => longer hc, fun a n hn hr => ?_⟩,
    fun hl => scanned ⟨fun hb => ?_, fun a n hn hr => ?_⟩⟩
  · rcases within hn hr with hr | ⟨_, _⟩
    · have := best a n hn hr
      have := hr.1
      omega
    · omega
  · exact (passRun_append_of_le (found hb).1).mpr (found hb)
  · rcases within hn hr with hr | ⟨_, _⟩
    · exact best a n hn hr
    · have := (found (by omega)).1
      omega

end Scanned

/-- The scan of what is left finds the eye of the whole. -/
theorem runScan_isEye {rest before : List Bool} {cs cl bs bl : Nat} (h : Scanned before cs cl bs bl) :
    IsEye (before ++ rest) (runScan rest before.length cs cl bs bl).1
      (runScan rest before.length cs cl bs bl).2 := by
  induction rest generalizing before cs cl bs bl with
  | nil =>
    rw [List.append_nil]
    exact h.eye
  | cons x rest ih =>
    have length : before.length + 1 = (before ++ [x]).length := (List.length_append (bs := [x])).symm
    rw [List.append_cons]
    cases x with
    | false =>
      rw [runScan, length]
      exact ih h.snoc_false
    | true =>
      have start : (if cl = 0 then before.length else cs) + cl = before.length := by
        split_ifs with h0
        · omega
        · exact h.start (by omega)
      obtain ⟨new, kept⟩ := h.snoc_true start
      simp only [runScan, length]
      by_cases hl : bl < cl + 1
      · rw [if_pos hl]
        exact ih (new hl)
      · rw [if_neg hl]
        exact ih (kept hl)

theorem longestRun_isEye (passes : List Bool) :
    IsEye passes (longestRun passes).1 (longestRun passes).2 := runScan_isEye (rest := passes) scanned_nil

/-- The eye has width 0 exactly where no setting passes (R131). -/
theorem IsEye.width_eq_zero {passes : List Bool} {a n : Nat} (h : IsEye passes a n) :
    n = 0 ↔ ∀ x ∈ passes, x = false := by
  constructor
  · rintro rfl x hx
    rw [← Bool.not_eq_true]
    rintro rfl
    obtain ⟨i, hi⟩ := List.mem_iff_getElem?.mp hx
    have := h.2 i 1 (Nat.le_refl 1) (passRun_one hi)
    omega
  · intro none
    by_contra hn
    have hn : 1 ≤ n := by omega
    exact Bool.false_ne_true (none _ ((h.1 hn).mem hn)).symm

/-! ### Conditions (R132, R134, R135) -/

section
variable {width minimum good : Nat}

theorem widthCond_of_lt (h : width < minimum) : widthCond width minimum good = .failed := if_pos h

theorem widthCond_of_between (h : minimum ≤ width) (hg : width < good) :
    widthCond width minimum good = .marginal := (if_neg (Nat.not_lt.mpr h)).trans (if_pos hg)

theorem widthCond_of_le (h : minimum ≤ good) (hg : good ≤ width) : widthCond width minimum good = .good :=
  (if_neg (Nat.not_lt.mpr (h.trans hg))).trans (if_neg (Nat.not_lt.mpr hg))

/-- The three bands of eye widths leave no width out. -/
theorem widthCond_iff (h : minimum ≤ good) :
    (widthCond width minimum good = .failed ↔ width < minimum) ∧
    (widthCond width minimum good = .marginal ↔ minimum ≤ width ∧ width < good) ∧
    (widthCond width minimum good = .good ↔ good ≤ width) := by
  rcases Nat.lt_or_ge width minimum with hw | hw
  · rw [widthCond_of_lt hw]
    simp only [reduceCtorEq, false_iff, true_iff]
    omega
  · rcases Nat.lt_or_ge width good with hg | hg
    · rw [widthCond_of_between hw hg]
      simp only [reduceCtorEq, false_iff, true_iff]
      omega
    · rw [widthCond_of_le h hg]
      simp only [reduceCtorEq, false_iff, true_iff]
      omega

end

theorem laneResult_of_delay (d r : LaneCond) : laneResult false d r = d := by cases d <;> rfl

theorem laneResult_of_both (d r : LaneCond) : laneResult true d r =
    if d = .failed ∨ r = .failed then .failed else if d = .good ∧ r = .good then .good else .marginal := by
  cases d <;> cases r <;> rfl

theorem laneResult_eq_failed (ref : Bool) (d r : LaneCond) :
    laneResult ref d r = .failed ↔ d = .failed ∨ (ref = true ∧ r = .failed) := by
  cases ref with
  | false => simp [laneResult_of_delay]
  | true =>
    rw [laneResult_of_both]
    split_ifs with hf hg <;> simp [hf]

theorem laneResult_eq_good (ref : Bool) (d r : LaneCond) :
    laneResult ref d r = .good ↔ d = .good ∧ (ref = true → r = .good) := by
  cases ref with
  | false => simp [laneResult_of_delay]
  | true =>
    rw [laneResult_of_both]
    split_ifs with hf hg
    · rcases hf with rfl | rfl <;> simp
    · simp [hg]
    · simpa using hg

/-! ### The lanes a commit writes (R136) -/

section
variable {c : Ctx} {old : Option (List LaneEntry)} {i : Nat}

/-- A lane that did not fail takes its centres and widths. -/
theorem Ctx.commitLane_of_found (h : c.laneResultOf i ≠ .failed) : c.commitLane old i =
    { tap := (c.delayEyeOf i).centre, eyeWidth := (c.delayEyeOf i).width, cond := c.laneResultOf i, trim := 0
      ref := if c.profile.refEnable then some ⟨(c.refEyeOf i).centre, (c.refEyeOf i).width⟩ else none } := by
  cases hc : c.laneResultOf i with
  | failed => exact absurd hc h
  | good => simp only [Ctx.commitLane, hc]
  | marginal => simp only [Ctx.commitLane, hc]

/-- A failed lane keeps the old tap and reference level, with widths 0. -/
theorem Ctx.commitLane_of_failed {l : LaneEntry} (h : c.laneResultOf i = .failed)
    (ho : (old.bind fun ls => ls[i]?) = some l) : c.commitLane old i =
    { tap := l.tap, eyeWidth := 0, cond := .failed, trim := 0
      ref := if c.profile.refEnable then
        some ⟨(l.ref.map RefFields.level).getD c.profile.defaultRef, 0⟩ else none } := by
  simp only [Ctx.commitLane, h, ho]

/-- A failed lane without an old entry takes tap 0 and the default level, with widths 0. -/
theorem Ctx.commitLane_of_failed_new (h : c.laneResultOf i = .failed)
    (ho : (old.bind fun ls => ls[i]?) = none) : c.commitLane old i =
    { tap := 0, eyeWidth := 0, cond := .failed, trim := 0
      ref := if c.profile.refEnable then some ⟨c.profile.defaultRef, 0⟩ else none } := by
  simp only [Ctx.commitLane, h, ho]

theorem Ctx.commitLane_cond : (c.commitLane old i).cond = c.laneResultOf i := by
  by_cases h : c.laneResultOf i = .failed
  · cases ho : old.bind fun ls => ls[i]? with
    | none => rw [Ctx.commitLane_of_failed_new h ho, h]
    | some l => rw [Ctx.commitLane_of_failed h ho, h]
  · rw [Ctx.commitLane_of_found h]

theorem Ctx.getElem?_commitLanes {l : LaneEntry} (h : (c.commitLanes old)[i]? = some l) :
    l = c.commitLane old i := by
  obtain ⟨inside, rfl⟩ := List.getElem?_eq_some_iff.mp h
  simp only [Ctx.commitLanes, List.getElem_map, List.getElem_range]

end

/-- Reference fields that stand only where the profile enables them. -/
theorem mem_ite_some {α : Type} {p : Bool} {a x : α} (h : x ∈ if p then some a else none) : x = a := by
  exact (Option.mem_some_iff.mp (Option.mem_ite_none_right.mp h).2).symm

/-- Settles O37: the bands of widths, the table of conditions, and each case of a lane committed. -/
theorem laneConditions : Obligations.LaneConditions := by
  refine ⟨fun _ _ _ => widthCond_iff, fun d r ref => ⟨laneResult_eq_failed ref d r, laneResult_eq_good ref d r⟩,
    fun c old i l hl => ?_⟩
  obtain rfl := Ctx.getElem?_commitLanes hl
  refine ⟨Ctx.commitLane_cond, State.Vouches.trim_commitLane c old i, c.commitLane_ref old i, fun h => ?_,
    fun h => ?_⟩
  · rw [Ctx.commitLane_of_found (Ctx.commitLane_cond ▸ h)]
    exact ⟨rfl, rfl, fun x hx => by rw [mem_ite_some hx]; exact ⟨rfl, rfl⟩⟩
  · rw [Ctx.commitLane_cond] at h
    cases ho : old.bind fun ls => ls[i]? with
    | none =>
      rw [Ctx.commitLane_of_failed_new h ho]
      refine ⟨rfl, fun x hx => by rw [mem_ite_some hx], fun ls o hls hlo => ?_,
        fun _ => ⟨rfl, fun x hx => by rw [mem_ite_some hx]⟩⟩
      rw [hls] at ho
      exact absurd (ho.symm.trans hlo) nofun
    | some m =>
      rw [Ctx.commitLane_of_failed h ho]
      refine ⟨rfl, fun x hx => by rw [mem_ite_some hx], fun ls o hls hlo => ?_, fun hn => ?_⟩
      · rw [hls] at ho
        obtain rfl : m = o := Option.some.inj (ho.symm.trans hlo)
        refine ⟨rfl, fun x hx y hy => ?_⟩
        rw [mem_ite_some hx, Option.mem_def.mp hy]
        rfl
      · rw [hn] at ho
        cases ho

end Sys2Proof.Machine
end

section
/-! PROOF. Trials as they are placed, answered and scored: O34, O35, O36, O38 and O47. -/

namespace Sys2Proof.Machine

/-! ### Stimulus words (R127) -/

theorem patternAt_eq (t : Table 8 Word) (n : Nat) : some (patternAt t n) = t.rows[n % 8]? :=
  (List.getElem?_eq_getElem (by rw [t.size]; exact Nat.mod_lt n (by decide))).symm

theorem patternAt_of_lt (t : Table 8 Word) {n : Nat} (h : n < 8) : some (patternAt t n) = t.rows[n]? := by
  rw [patternAt_eq, Nat.mod_eq_of_lt h]

theorem baseIndex_lt {p : Profile} (h : p.baseWord ≤ 7) (k : Nat) : baseIndex p k < 8 := by
  rw [baseIndex]
  split_ifs
  · exact Nat.mod_lt _ (by decide)
  · exact Nat.lt_succ_of_le h

section
variable {p : Profile} (t : Table 8 Word) (k i : Nat)

theorem stimulus_of_common (h : p.arrangement = .common) :
    stimulus t p k i = patternAt t (baseIndex p k) := by simp only [stimulus, h]

theorem stimulus_of_rotate (h : p.arrangement = .rotate) :
    stimulus t p k i = patternAt t (baseIndex p k + i) := by simp only [stimulus, h]

theorem stimulus_of_alternate (h : p.arrangement = .alternate) :
    stimulus t p k i = if i % 2 = 0 then patternAt t (baseIndex p k)
      else patternAt t (baseIndex p k) ^^^ 0xFFFF#16 := by
  have flip (w : Word) : ~~~w = w ^^^ 0xFFFF#16 := BitVec.xor_allOnes.symm
  simp only [stimulus, h, flip]

end

/-! ### What BEGIN and each TRIAL carry (R128, R129, R134) -/

section
variable {c : Ctx} (id : Byte)

theorem Ctx.directive_of_announce (h : c.phase = .announce) :
    c.directive id = .beginTraining c.job.key.cls id := if_pos h

theorem Ctx.directive_of_delaySweep (h : c.phase = .delaySweep) :
    c.directive id = .trial id .delay ((List.range c.profile.laneCount).map fun i =>
      { tap := c.index, word := stimulus c.patterns c.profile c.index i
        ref := if c.profile.refEnable then some (c.delayRef i) else none }) := by
  have lane : c.trialLane = fun i =>
      { tap := c.index, word := stimulus c.patterns c.profile c.index i
        ref := if c.profile.refEnable then some (c.delayRef i) else none } :=
    funext fun i => if_neg (by simp [h])
  rw [Ctx.directive, if_neg (by simp [h]), if_neg (by simp [h]), lane]

theorem Ctx.directive_of_refSweep (h : c.phase = .refSweep) :
    c.directive id = .trial id .reference ((List.range c.profile.laneCount).map fun i =>
      { tap := if (c.delayEyeOf i).cond = .failed then 0 else (c.delayEyeOf i).centre
        ref := some c.index, word := stimulus c.patterns c.profile c.index i }) := by
  have lane : c.trialLane = fun i =>
      { tap := if (c.delayEyeOf i).cond = .failed then 0 else (c.delayEyeOf i).centre
        ref := some c.index, word := stimulus c.patterns c.profile c.index i } :=
    funext fun i => if_pos h
  rw [Ctx.directive, if_neg (by simp [h]), if_pos h, lane]

theorem Ctx.delayRef_of_new (h : c.prior = none) (i : Nat) : c.delayRef i = c.profile.defaultRef := by
  simp only [Ctx.delayRef, h]

theorem Ctx.delayRef_of_prior {prior : List PriorLane} (h : c.prior = some prior) (i : Nat) :
    c.delayRef i = ((prior[i]?).bind PriorLane.ref).getD c.profile.defaultRef := by
  simp only [Ctx.delayRef, h]

end

/-- Settles O38: each arrangement's word, and the directive of each phase. -/
theorem trials : Obligations.Trials := by
  refine ⟨fun t p k i b hw hb => ?_, fun c id h => ?_, fun c id => c.directive_of_refSweep id,
    fun c id => c.directive_of_announce id⟩
  · obtain rfl : b = baseIndex p k := hb
    have word := patternAt_of_lt t (baseIndex_lt hw k)
    refine ⟨fun h => ?_, fun h => ?_, fun h => ?_⟩
    · rw [stimulus_of_common t k i h, word]
    · rw [stimulus_of_rotate t k i h, patternAt_eq]
    · rw [stimulus_of_alternate t k i h, ← word]
      split_ifs <;> rfl
  · rw [c.directive_of_delaySweep id h]
    cases hp : c.prior with
    | none => simp only [Ctx.delayRef_of_new hp]
    | some prior => simp only [Ctx.delayRef_of_prior hp]

/-! ### A trial scored (R130, R134) -/

section
variable {c : Ctx} (counts : List Nat)

theorem Ctx.score_of_delaySweep (h : c.phase = .delaySweep) : c.score counts = { c with
    delayMap := c.delayMap.mapIdx fun i m =>
      m.set c.index (some (counts.getD i 256 ≤ c.profile.passThreshold)) } :=
  if_neg (by simp [h])

theorem Ctx.score_of_refSweep (h : c.phase = .refSweep) : c.score counts = { c with
    refMap := c.refMap.mapIdx fun i m =>
      m.set c.index (some ((c.delayEyeOf i).cond ≠ .failed ∧
        counts.getD i 256 ≤ c.profile.passThreshold)) } := by
  have passed (i : Nat) : ((c.delayEyeOf i).cond != .failed &&
      decide (counts.getD i 256 ≤ c.profile.passThreshold)) =
      decide ((c.delayEyeOf i).cond ≠ .failed ∧ counts.getD i 256 ≤ c.profile.passThreshold) := by
    rw [Bool.eq_iff_iff]
    simp
  simp only [Ctx.score, if_pos h, scoreLane, passed]

/-- Before the sweep's last trial a RESULT is followed by the next trial. -/
theorem Ctx.takeResult_of_lt (h : (c.score counts).index < (c.score counts).lastIndex) :
    c.takeResult counts = { c.score counts with
      outstanding := none, timer := none, index := (c.score counts).index + 1 } := if_pos h

theorem Ctx.takeResult_of_last_delay (h : ¬(c.score counts).index < (c.score counts).lastIndex)
    (hp : (c.score counts).phase ≠ .refSweep) : c.takeResult counts =
      { c.score counts with outstanding := none, timer := none }.endDelaySweep :=
  (if_neg h).trans (if_neg hp)

theorem Ctx.takeResult_of_last_ref (h : ¬(c.score counts).index < (c.score counts).lastIndex)
    (hp : (c.score counts).phase = .refSweep) : c.takeResult counts =
      { c.score counts with outstanding := none, timer := none }.endRefSweep :=
  (if_neg h).trans (if_pos hp)

/-- The context with trial 63 of the delay sweep scored and the delay eyes found (R131). -/
def Ctx.delayEvaluated (c : Ctx) (counts : List Nat) : Ctx :=
  { c.score counts with
    outstanding := none, timer := none
    delayEye := (c.score counts).delayMap.map (findEye c.profile.minWidth c.profile.goodWidth) }

/-- The context with trial 31 of the reference sweep scored and the reference eyes found (R134). -/
def Ctx.refEvaluated (c : Ctx) (counts : List Nat) : Ctx :=
  { c.score counts with
    outstanding := none, timer := none
    refEye := (c.score counts).refMap.map (findEye c.profile.minRefWidth c.profile.goodRefWidth) }

theorem Ctx.takeResult_of_63 (h : c.phase = .delaySweep) (hi : c.index = 63) : c.takeResult counts =
    if c.profile.refEnable && (c.delayEvaluated counts).delayEye.any (fun e => e.cond != .failed) then
      { c.delayEvaluated counts with phase := .refSweep, index := 0 }
    else (c.delayEvaluated counts).evaluate := by
  rw [Ctx.takeResult_of_last_delay]
  · rw [Ctx.delayEvaluated, Ctx.score_of_delaySweep counts h]
    rfl
  · simp [Ctx.score_of_delaySweep counts h, Ctx.lastIndex, h, hi]
  · simp [Ctx.score_of_delaySweep counts h, h]

theorem Ctx.takeResult_of_31 (h : c.phase = .refSweep) (hi : c.index = 31) :
    c.takeResult counts = (c.refEvaluated counts).evaluate := by
  rw [Ctx.takeResult_of_last_ref]
  · rw [Ctx.refEvaluated, Ctx.score_of_refSweep counts h]
    rfl
  · simp [Ctx.score_of_refSweep counts h, Ctx.lastIndex, h, hi]
  · simp [Ctx.score_of_refSweep counts h, h]

theorem Ctx.evaluate_delayEye (c : Ctx) : c.evaluate.delayEye = c.delayEye := by
  rw [Ctx.evaluate]
  split_ifs <;> rfl

end

/-- Settles O35: each sweep within and at its last trial. -/
theorem scoring : Obligations.Scoring := by
  intro c counts _
  refine ⟨fun h hi => ?_, fun h hi => ?_, fun h hi d hd hm he => ?_, fun h hi d hd hm he => ?_⟩
  · rw [Ctx.takeResult_of_lt, Ctx.score_of_delaySweep counts h]
    simpa [Ctx.score_of_delaySweep counts h, Ctx.lastIndex, h] using hi
  · rw [Ctx.takeResult_of_lt, Ctx.score_of_refSweep counts h]
    simpa [Ctx.score_of_refSweep counts h, Ctx.lastIndex, h] using hi
  · obtain rfl : d = c.delayEvaluated counts := by
      rw [hd, he, hm, Ctx.delayEvaluated, Ctx.score_of_delaySweep counts h, hi]
    rw [Ctx.takeResult_of_63 counts h hi]
    constructor
    · rintro ⟨hr, x, hx, hne⟩
      exact if_pos (by simpa [hr] using ⟨x, hx, hne⟩)
    · intro hn
      exact if_neg (by simpa using hn)
  · obtain rfl : d = c.refEvaluated counts := by
      rw [hd, he, hm, Ctx.refEvaluated, Ctx.score_of_refSweep counts h, hi]
    exact Ctx.takeResult_of_31 counts h hi

/-- Settles O36: what the scan finds is the eye, and trial 63 is scored before it is looked for. -/
theorem eyeIsLongestRun : Obligations.EyeIsLongestRun := by
  intro passes
  refine ⟨fun a n h hn => ?_, (longestRun_isEye passes).width_eq_zero, fun _ _ => rfl, fun _ _ _ => rfl,
    fun c counts h hi => ?_⟩
  · have eye := longestRun_isEye passes
    rw [h] at eye
    exact ⟨eye.1 hn, eye.2⟩
  · have eyes : (c.takeResult counts).delayEye = (c.delayEvaluated counts).delayEye := by
      rw [Ctx.takeResult_of_63 counts h hi]
      split_ifs
      · rfl
      · exact Ctx.evaluate_delayEye _
    rw [eyes, Ctx.delayEvaluated, Ctx.score_of_delaySweep counts h, hi]

/-! ### READY and RESULT (R59, R124, R125, R130) -/

section
variable {s : State} {e : EngineId} {c : Ctx}

theorem Ctx.sweeping_iff : c.sweeping = true ↔ c.phase = .delaySweep ∨ c.phase = .refSweep :=
  decide_eq_true_iff

theorem State.proceed_of_ready (h : c.sweeping = true ∧ c.outstanding = none ∧ c.leaving = none) :
    s.proceed e c = s.placeDirective e c false := if_pos h

theorem State.proceed_of_waiting (h : ¬(c.sweeping = true ∧ c.outstanding = none ∧ c.leaving = none)) :
    s.proceed e c = s.setCtx e (some c) := if_neg h

variable {p : PortId} {id : Byte} (hr : s.runningPort p = some (e, c)) (ho : (s.port p).state = .online)
include hr ho

theorem State.takeReady_eq : s.takeReady p id =
    if c.phase = .announce ∧ c.outstanding = some id then s.proceed e c.takeReady else s := by
  simp only [State.takeReady, hr, ho, true_and]

theorem State.takeResult_eq (counts : List Nat) : s.takeResult p id counts =
    if (c.phase = .delaySweep ∨ c.phase = .refSweep) ∧ c.outstanding = some id then
      s.proceed e (c.takeResult counts) else s := by
  simp only [State.takeResult, hr, ho, Ctx.sweeping_iff, true_and]

end

section
variable {s : State} {p : PortId} {e : EngineId} {c : Ctx} (tag id : Byte)
  (ho : (s.port p).state = .online) (hr : s.runningPort p = some (e, c))
include ho

theorem exec_ready_of_online : exec (.ready p tag [id]) s = .next ((s.framed p).takeReady p id) :=
  congrArg Host.Outcome.next (State.takeFrame_of_good tag id _ (by simp [ho]) (by simp [ho]))

include hr

theorem exec_result_of_online {counts : List Byte} (hl : counts.length = c.profile.laneCount) :
    exec (.result p tag (id :: counts)) s =
      .next ((s.framed p).takeResult p id (counts.map BitVec.toNat)) := by
  have judged : s.judgeResult p (id :: counts) = some (some (id, counts.map BitVec.toNat)) := by
    rw [State.judgeResult_of_some hr, parseResult, if_pos hl, Option.map_some]
  have taken : exec (.result p tag (id :: counts)) s =
      .next (s.takeFrame p tag (s.judgeResult p (id :: counts)) _) := rfl
  rw [taken, judged, State.takeFrame_of_good tag _ _ (by simp [ho]) (by simp [ho])]

end

/-- Settles O34: a response is taken or discarded by its phase and id, and the sweep then goes on. -/
theorem responses : Obligations.Responses := by
  intro p tag id s e c ho hr
  have online : ((s.framed p).port p).state = .online := (s.framed_state p).trans ho
  have running : (s.framed p).runningPort p = some (e, c) := hr
  rw [exec_ready_of_online tag id ho, State.takeReady_eq running online]
  refine ⟨fun h => by rw [if_pos h]; rfl, fun h => by rw [if_neg h], fun counts hl => ?_,
    fun t c' hs hout hleft => ?_, fun t c' h => ?_⟩
  · rw [exec_result_of_online tag id ho hr hl, State.takeResult_eq running online]
    exact ⟨fun h => by rw [if_pos h], fun h => by rw [if_neg h]⟩
  · rw [State.proceed_of_ready ⟨hs, hout, hleft⟩, State.placeDirective_eq]
  · rw [State.proceed_of_waiting h, State.setCtx_eq]

/-! ### The trial timer (R124, R143, R144) -/

section
variable {s : State} {e : EngineId} {c : Ctx} {timer : Timer}

theorem State.expireTrial_of_stopped (h : ∀ c ∈ (s.engine e).ctx, c.timer = none) :
    s.expireTrial e = s := by
  rw [State.expireTrial]
  cases hc : (s.engine e).ctx with
  | none => rfl
  | some c => simp only [h c hc]

/-- An expiry of a running timer, at its moment: the resend, or the failure operation asked for. -/
theorem State.expireTrial_of_running (hc : (s.engine e).ctx = some c) (ht : c.timer = some timer) :
    s.expireTrial e =
      if c.retry then (s.reach timer.due).setCtx e (some (c.askFailure .unresponsive))
      else (s.reach timer.due).placeDirective e c true := by
  simp only [State.expireTrial, hc, ht]

end

theorem exec_trialTimerExpiry (s : State) (e : EngineId) :
    exec (.trialTimerExpiry e) s = .next (s.expireTrial e) := rfl

/-- Settles O47: a stopped timer, a first expiry and a second. -/
theorem trialTimerExpiry : Obligations.TrialTimerExpiry := by
  intro s e
  rw [exec_trialTimerExpiry]
  refine ⟨fun h => by rw [State.expireTrial_of_stopped h], fun c timer hc ht => ?_⟩
  rw [State.expireTrial_of_running hc ht]
  refine ⟨fun h => ?_, fun h => ?_⟩
  · rw [if_neg (by simp [h]), State.placeDirective_eq]
    rfl
  · rw [if_pos h, State.setCtx_eq]
    rfl

end Sys2Proof.Machine
end

section
/-! PROOF. The temperature-movement test: O49. -/

namespace Sys2Proof.Machine

/-! ### When a job has moved, and what it waits for (R147, R149) -/

theorem moved_iff {drift : Nat} {v start : Int} :
    moved drift v start = true ↔ drift < 2 * (v - start).natAbs := decide_eq_true_iff

/-- The failing requests are NO_EYE and the failure operations; reservation and commit are not. -/
theorem Ctx.failing_iff (c : Ctx) :
    c.failing = true ↔ c.request = some .noEye ∨ ∃ o, c.request = some (.failure o) := by
  unfold Ctx.failing
  split <;> rename_i h <;> simp [h]

/-! ### What follows a movement (R148, R149) -/

section
variable {s : State} {e : EngineId} {c : Ctx}

theorem State.onMoved_of_first (h : c.job.attempts = 0) : s.onMoved e c = s.abandon e c true 1 :=
  if_pos h

theorem State.onMoved_of_failing (h : c.job.attempts ≠ 0) (hf : c.failing = true) :
    s.onMoved e c = s := (if_neg h).trans (if_pos hf)

theorem State.onMoved_of_second (h : c.job.attempts ≠ 0) (hf : c.failing = false) :
    s.onMoved e c = s.setCtx e (some (c.askFailure .unsettled)) :=
  (if_neg h).trans (if_neg (by simp [hf]))

/-! ### The test taken (R147) -/

theorem State.takeTest_of_nil (h : (s.engine e).tests = []) : s.takeTest e = s := by
  simp only [State.takeTest, h]

variable {test : TempTest} {rest : List TempTest} (ht : (s.engine e).tests = test :: rest)
include ht

/-- A test that no job of its port fails is only taken out of the engine's list. -/
theorem State.takeTest_of_passed (h : ∀ c ∈ (s.engine e).ctx, c.job.key.port = test.port →
      2 * (test.v - c.startTemp).natAbs ≤ (s.budget c.job.key.cls).drift) :
    s.takeTest e = s.modEngine e fun x => { x with tests := rest } := by
  simp only [State.takeTest, ht]
  cases hc : (s.engine e).ctx with
  | none => rfl
  | some c => exact if_neg fun ⟨hp, hm⟩ => (moved_iff.mp hm).not_ge (h c hc hp)

theorem State.takeTest_of_moved (hc : (s.engine e).ctx = some c) (hp : c.job.key.port = test.port)
    (hm : (s.budget c.job.key.cls).drift < 2 * (test.v - c.startTemp).natAbs) :
    s.takeTest e = (s.modEngine e fun x => { x with tests := rest }).onMoved e c := by
  simp only [State.takeTest, ht, hc]
  exact if_pos ⟨hp, moved_iff.mpr hm⟩

end

theorem exec_temperatureMovementTest (s : State) (e : EngineId) :
    exec (.temperatureMovementTest e) s = .next (s.takeTest e) := rfl

/-- Settles O49: no test, a test passed, and the three courses of a job that has moved. -/
theorem movementTest : Obligations.MovementTest := by
  intro s e h1
  rw [exec_temperatureMovementTest]
  refine ⟨fun h => by rw [State.takeTest_of_nil h], fun p v rest ht t hdef => ?_, Ctx.failing_iff⟩
  have taken : t = s.modEngine e fun x => { x with tests := rest } := hdef
  refine ⟨fun h => by rw [State.takeTest_of_passed ht h, taken], fun c hc hp hm => ?_⟩
  rw [State.takeTest_of_moved ht hc hp hm, ← taken]
  refine ⟨fun h0 => ⟨_, rfl, ?_⟩, fun h0 hf => by rw [State.onMoved_of_failing h0 hf], fun h0 hf => ?_⟩
  · have one : t.OneSlotPerKey := taken ▸ h1
    rw [State.onMoved_of_first h0]
    exact t.abandon_spec e c true 1 one
  · rw [State.onMoved_of_second h0 hf, taken, State.setCtx, State.modEngine_modEngine]
    rfl

end Sys2Proof.Machine
end

section
/-! PROOF. What the buffer formats carry comes back: profiles, record bodies and directory entries:
O17. -/

namespace Sys2Proof.Machine

/-! ### Fields of one and of two bytes (R189, R191) -/

theorem toNat_toByte {n : Nat} (h : n < 256) : (toByte n).toNat = n := by
  rw [toByte, BitVec.toNat_ofNat, Nat.mod_eq_of_lt h]

theorem fromLe16_toByte {n : Nat} (h : n < 65536) : fromLe16 (toByte n) (toByte (n / 256)) = n := by
  rw [fromLe16, toNat_toByte (by omega : n / 256 < 256), toByte, BitVec.toNat_ofNat]
  omega

/-- Bit 7 beside a number of seven bits is read back. -/
theorem msb_toByte_add_bit {n : Nat} (h : n < 128) (b : Bool) : (toByte (n + 128 * bit b)).msb = b := by
  have le_one : bit b ≤ 1 := by cases b <;> decide
  rw [BitVec.msb_eq_decide, toNat_toByte (by omega)]
  cases b with
  | false => simpa [bit] using h
  | true => simp [bit]

/-- A valid temperature written as two bytes is read back (R189). -/
theorem signed16_tempBytes {t : Int} (h : validTemp t = true) :
    signed16 ((tempBytes t).getD 0 0) ((tempBytes t).getD 1 0) = t := by
  obtain ⟨low, high⟩ := validTemp_iff.mp h
  have two : fromLe16 ((tempBytes t).getD 0 0) ((tempBytes t).getD 1 0) = (BitVec.ofInt 16 t).toNat :=
    fromLe16_toByte (BitVec.isLt _)
  rw [signed16, two, BitVec.ofNat_toNat, BitVec.setWidth_eq]
  exact BitVec.toInt_ofInt_eq_self (by decide) (by omega) (by omega)

/-- The low five bits of a field give back the number whose code they are (R191). -/
theorem fromCode5_of_mod {n : Nat} {t : Int} (hn : n % 32 = signedCode5 t) (ht : t.natAbs ≤ 15) :
    fromCode5 n = t := by
  have code : BitVec.ofNat 5 n = BitVec.ofInt 5 t := BitVec.eq_of_toNat_eq hn
  rw [fromCode5, code]
  exact BitVec.toInt_ofInt_eq_self (by decide) (by omega) (by omega)

theorem signedCode5_lt (t : Int) : signedCode5 t < 32 := BitVec.isLt _

@[simp] theorem toYesNo_toByte_bit (b : Bool) : toYesNo (toByte (bit b)) = some b := by
  cases b <;> rfl

@[simp] theorem toArrangement_code (a : Arrangement) : toArrangement a.code = some a := by
  cases a <;> rfl

@[simp] theorem toLaneCond_code (c : LaneCond) : toLaneCond c.code = some c := by cases c <;> rfl

theorem LaneCond.code_le (c : LaneCond) : c.code ≤ 2 := by cases c <;> decide

/-! ### Profiles (R165, R192) -/

theorem Profile.valid_iff {p : Profile} : p.valid = true ↔
    p.laneCount ≤ 16 ∧ p.defaultRef ≤ 31 ∧ p.passThreshold ≤ 255 ∧
    (1 ≤ p.minWidth ∧ p.minWidth ≤ p.goodWidth ∧ p.goodWidth ≤ 64) ∧
    (1 ≤ p.minRefWidth ∧ p.minRefWidth ≤ p.goodRefWidth ∧ p.goodRefWidth ≤ 32) ∧ p.baseWord ≤ 7 := by
  simp [Profile.valid, and_assoc]

/-- Every field of a valid profile fits its byte. -/
theorem readProfile_ofBytes {p : Profile} (h : p.valid = true) :
    readProfile (Memory.ofBytes p.bytes) = some p := by
  obtain ⟨hn, hd, hp, ⟨_, hw, hg⟩, ⟨_, hrw, hrg⟩, hb⟩ := Profile.valid_iff.mp h
  simp [readProfile, Memory.read_ofBytes, Config.bufferBytes, Profile.bytes,
    toNat_toByte (by omega : p.laneCount < 256), toNat_toByte (by omega : p.defaultRef < 256),
    toNat_toByte (by omega : p.passThreshold < 256), toNat_toByte (by omega : p.minWidth < 256),
    toNat_toByte (by omega : p.goodWidth < 256), toNat_toByte (by omega : p.minRefWidth < 256),
    toNat_toByte (by omega : p.goodRefWidth < 256), toNat_toByte (by omega : p.baseWord < 256), h]

/-! ### A buffer of a head and blocks of one length -/

/-- Byte `j` of block `i` stands at `i` block lengths and `j`. -/
theorem getD_flatten_of_length {blocks : List (List Byte)} {n i j : Nat} {b : List Byte}
    (len : ∀ x ∈ blocks, x.length = n) (hi : blocks[i]? = some b) (hj : j < n) :
    blocks.flatten.getD (n * i + j) 0 = b.getD j 0 := by
  induction blocks generalizing i with
  | nil => simp at hi
  | cons x xs ih =>
    have hx : x.length = n := len x (by simp)
    cases i with
    | zero =>
      obtain rfl : x = b := by simpa using hi
      rw [List.flatten_cons, List.getD_append _ _ _ _ (by omega), Nat.mul_zero, Nat.zero_add]
    | succ i =>
      rw [List.flatten_cons, List.getD_append_right _ _ _ _ (by rw [Nat.mul_succ]; omega),
        show n * (i + 1) + j - x.length = n * i + j by rw [Nat.mul_succ]; omega]
      exact ih (fun y hy => len y (by simp [hy])) (by simpa using hi)

/-- A head and equal blocks, all within the buffer, read back: each block's bytes behind the head. -/
theorem Memory.read_ofBytes_block {head : List Byte} {blocks : List (List Byte)} {n i j : Nat}
    {b : List Byte} (len : ∀ x ∈ blocks, x.length = n) (hi : blocks[i]? = some b) (hj : j < n)
    (fits : head.length + n * blocks.length ≤ Config.bufferBytes) :
    (Memory.ofBytes (head ++ blocks.flatten)).read (head.length + n * i + j) = b.getD j 0 := by
  have below : n * (i + 1) ≤ n * blocks.length :=
    Nat.mul_le_mul_left n (List.getElem?_eq_some_iff.mp hi).1
  rw [Nat.mul_succ] at below
  rw [Memory.read_ofBytes, if_pos (by omega), Nat.add_assoc,
    List.getD_append_right _ _ _ _ (Nat.le_add_right _ _), Nat.add_sub_cancel_left,
    getD_flatten_of_length len hi hj]

/-! ### The directory (R183, R192) -/

theorem Slot.length_entry (x : Slot) : x.entry.length = 4 := by cases x <;> rfl

/-- The entry of slot `i` stands at `4 * i`. -/
theorem directory_slice (s : State) (i : SlotId) :
    (Memory.ofBytes (s.slots.rows.map Slot.entry).flatten).slice (4 * i.val) 4 = (s.slot i).entry := by
  have row : (s.slots.rows.map Slot.entry)[i.val]? = some (s.slot i).entry := by
    simp [State.slot, Table.get, s.slots.size]
  refine List.ext_getElem (by simp [Memory.slice, Slot.length_entry]) fun j hj hj' => ?_
  have hj4 : j < 4 := by rwa [Slot.length_entry] at hj'
  have block := Memory.read_ofBytes_block (head := []) (n := 4) (by simp [Slot.length_entry]) row hj4
    (by simp [s.slots.size, Config.bufferBytes])
  rw [List.length_nil, Nat.zero_add, List.nil_append, List.getD_eq_getElem _ _ hj'] at block
  simpa [Memory.slice] using block

/-! ### One lane of a record body (R191) -/

theorem preloadLaneOk_iff {limit : Nat} {l : LaneEntry} : preloadLaneOk limit l = true ↔
    l.tap ≤ 63 ∧ l.eyeWidth ≤ 64 ∧ (l.cond = .failed → l.eyeWidth = 0) ∧
    (∀ r, l.ref = some r → r.level ≤ 31 ∧ r.width ≤ 32) ∧
    l.trim.natAbs ≤ 15 ∧ l.trim.natAbs ≤ limit := by
  cases hr : l.ref <;> simp [preloadLaneOk, hr, and_assoc, or_iff_not_imp_left]

theorem LaneEntry.length_bytes (l : LaneEntry) : l.bytes.length = if l.ref.isSome then 4 else 3 := by
  cases h : l.ref <;> simp [LaneEntry.bytes, h, le16]

/-- A lane whose bytes stand at their place is read back, where a preload admits its fields: each
field lies within its bits, so no field runs into the next. -/
theorem bufferLane_of_read {m : Memory} {i limit : Nat} {l : LaneEntry}
    (ok : preloadLaneOk limit l = true) (href : bufferRef m = l.ref.isSome)
    (here : ∀ j < l.bytes.length, m.read (11 + l.bytes.length * i + j) = l.bytes.getD j 0) :
    bufferLane m i = some l := by
  obtain ⟨tap, eyeWidth, ref, cond, trim⟩ := l
  obtain ⟨(htap : tap ≤ 63), (heye : eyeWidth ≤ 64), -, hr, (htrim : trim.natAbs ≤ 15), -⟩ :=
    preloadLaneOk_iff.mp ok
  have hcond := cond.code_le
  have hcode := signedCode5_lt trim
  have first : (toByte (tap + 64 * cond.code)).toNat = tap + 64 * cond.code := toNat_toByte (by omega)
  have condBack : (tap + 64 * cond.code) / 64 = cond.code := by omega
  have tapBack : (tap + 64 * cond.code) % 64 = tap := by omega
  have eyeBack : (toByte eyeWidth).toNat % 128 = eyeWidth := by
    rw [toNat_toByte (by omega), Nat.mod_eq_of_lt (by omega)]
  cases ref with
  | none =>
    have b0 : m.read (11 + 3 * i) = toByte (tap + 64 * cond.code) := here 0 (by decide : 0 < 3)
    have b1 : m.read (11 + 3 * i + 1) = toByte eyeWidth := here 1 (by decide : 1 < 3)
    have b2 : m.read (11 + 3 * i + 2) = toByte (signedCode5 trim) := here 2 (by decide : 2 < 3)
    have trimBack : fromCode5 (toByte (signedCode5 trim)).toNat = trim :=
      fromCode5_of_mod (by rw [toNat_toByte (by omega), Nat.mod_eq_of_lt hcode]) htrim
    simp [bufferLane, href, b0, b1, b2, first, condBack, tapBack, eyeBack, trimBack]
  | some r =>
    obtain ⟨hlevel, hwidth⟩ := hr r rfl
    obtain ⟨field, hfield⟩ : ∃ n, n = signedCode5 trim + 32 * r.level + 1024 * r.width :=
      exists_eq
    have b0 : m.read (11 + 4 * i) = toByte (tap + 64 * cond.code) := here 0 (by decide : 0 < 4)
    have b1 : m.read (11 + 4 * i + 1) = toByte eyeWidth := here 1 (by decide : 1 < 4)
    have b2 : m.read (11 + 4 * i + 2) = toByte field := hfield ▸ here 2 (by decide : 2 < 4)
    have b3 : m.read (11 + 4 * i + 3) = toByte (field / 256) := hfield ▸ here 3 (by decide : 3 < 4)
    have fieldBack : fromLe16 (toByte field) (toByte (field / 256)) = field :=
      fromLe16_toByte (by omega)
    have levelBack : field / 32 % 32 = r.level := by omega
    have widthBack : field / 1024 = r.width := by omega
    have trimBack : fromCode5 field = trim := fromCode5_of_mod (by omega) htrim
    simp [bufferLane, href, b0, b1, b2, b3, first, condBack, tapBack, eyeBack, fieldBack, levelBack,
      widthBack, trimBack]

/-! ### The record body (R175, R191) -/

/-- The eleven bytes of a record body before its lanes. -/
def Snapshot.header (sn : Snapshot) : List Byte := sn.bytes.take 11

theorem Snapshot.bytes_eq (sn : Snapshot) :
    sn.bytes = sn.header ++ (sn.lanes.map LaneEntry.bytes).flatten := rfl

theorem Snapshot.length_header (sn : Snapshot) : sn.header.length = 11 := rfl

theorem Snapshot.read_header (sn : Snapshot) {a : Nat} (h : a < 11) :
    (Memory.ofBytes sn.bytes).read a = sn.bytes.getD a 0 := by
  rw [Memory.read_ofBytes, if_pos (Nat.lt_trans h (by decide))]

theorem bufferTrained_ofBytes {sn : Snapshot} (h : validTemp sn.trained = true) :
    bufferTrained (Memory.ofBytes sn.bytes) = sn.trained := by
  rw [bufferTrained, sn.read_header (by decide), sn.read_header (by decide)]
  exact signed16_tempBytes h

theorem bufferAge_ofBytes {sn : Snapshot} (h : sn.age ≤ 65535) :
    bufferAge (Memory.ofBytes sn.bytes) = sn.age := by
  rw [bufferAge, sn.read_header (by decide), sn.read_header (by decide)]
  exact fromLe16_toByte (by omega)

theorem any_ref_of_lanesMatch {ref : Bool} {lanes : List LaneEntry} (nonempty : lanes ≠ [])
    (shape : lanesMatch ref lanes = true) : (lanes.any fun l => l.ref.isSome) = ref := by
  have present : ∀ l ∈ lanes, l.ref.isSome = ref := by simpa [lanesMatch] using shape
  obtain ⟨l, hl⟩ := List.exists_mem_of_ne_nil lanes nonempty
  cases ref with
  | true => exact List.any_eq_true.mpr ⟨l, hl, present l hl⟩
  | false => exact List.any_eq_false.mpr fun x hx => by simp [present x hx]

section
variable {sn : Snapshot} {ref : Bool} (count : sn.lanes.length ≤ 16)
include count

theorem bufferLanes_ofBytes : bufferLanes (Memory.ofBytes sn.bytes) = sn.lanes.length := by
  rw [bufferLanes, sn.read_header (by decide)]
  change (toByte (sn.lanes.length + 128 * bit _)).toNat % 32 = _
  rw [toByte, BitVec.toNat_ofNat]
  omega

/-- The reference presence is that of the lanes; a body with no lane would show none. -/
theorem bufferRef_ofBytes (nonempty : sn.lanes ≠ []) (shape : lanesMatch ref sn.lanes = true) :
    bufferRef (Memory.ofBytes sn.bytes) = ref := by
  rw [bufferRef, sn.read_header (by decide)]
  change (toByte (sn.lanes.length + 128 * bit (sn.lanes.any fun l => l.ref.isSome))).msb = ref
  rw [any_ref_of_lanesMatch nonempty shape, msb_toByte_add_bit (by omega)]

/-- Each lane stands behind the header in its place. -/
theorem bufferLane_ofBytes {limit i : Nat} {l : LaneEntry}
    (shape : lanesMatch ref sn.lanes = true) (href : bufferRef (Memory.ofBytes sn.bytes) = ref)
    (ok : preloadLaneOk limit l = true) (hi : sn.lanes[i]? = some l) :
    bufferLane (Memory.ofBytes sn.bytes) i = some l := by
  have present : ∀ x ∈ sn.lanes, x.ref.isSome = ref := by simpa [lanesMatch] using shape
  have lref : l.ref.isSome = ref := present l (List.mem_of_getElem? hi)
  have len : ∀ x ∈ sn.lanes.map LaneEntry.bytes, x.length = l.bytes.length := by
    intro x hx
    obtain ⟨y, hy, rfl⟩ := List.mem_map.mp hx
    rw [y.length_bytes, l.length_bytes, present y hy, lref]
  have size : l.bytes.length ≤ 4 := by
    rw [l.length_bytes]
    split <;> decide
  have room := Nat.mul_le_mul size count
  refine bufferLane_of_read ok (href.trans lref.symm) fun j hj => ?_
  rw [sn.bytes_eq, ← sn.length_header]
  exact Memory.read_ofBytes_block len (by simp [hi]) hj (by
    rw [List.length_map, sn.length_header, Config.bufferBytes]
    omega)

end

theorem allSome_map_some {α : Type} (l : List α) : allSome (l.map some) = some l := by
  induction l with
  | nil => rfl
  | cons a l ih => rw [List.map_cons, allSome, ih, Option.map_some]

theorem bufferLaneList_eq_some {m : Memory} {limit : Nat} {lanes : List LaneEntry}
    (count : bufferLanes m = lanes.length) (ok : lanes.all (preloadLaneOk limit) = true)
    (each : ∀ i l, lanes[i]? = some l → bufferLane m i = some l) :
    bufferLaneList m limit = some lanes := by
  have listed : ((List.range (bufferLanes m)).map fun i =>
      (bufferLane m i).filter (preloadLaneOk limit)) = lanes.map some := by
    refine List.ext_getElem (by simp [count]) fun i _ h => ?_
    have hi : i < lanes.length := by simpa using h
    have hok := List.all_eq_true.mp ok lanes[i] (List.getElem_mem hi)
    simp [each i lanes[i] (List.getElem?_eq_getElem hi), hok]
  rw [bufferLaneList, listed, allSome_map_some]

/-- Settles O17: the profile field by field, the record body header and lanes, the directory entry
by entry. -/
theorem bufferFormatsRoundTrip : Obligations.BufferFormatsRoundTrip := by
  refine ⟨fun p => readProfile_ofBytes, fun sn limit ref count nonempty shape ok temp age => ?_,
    directory_slice⟩
  have lanes := bufferLanes_ofBytes count
  have presence := bufferRef_ofBytes count nonempty shape
  have each : ∀ i l, sn.lanes[i]? = some l → bufferLane (Memory.ofBytes sn.bytes) i = some l :=
    fun i l hi => bufferLane_ofBytes count shape presence
      (List.all_eq_true.mp ok l (List.mem_of_getElem? hi)) hi
  exact ⟨lanes, presence, bufferTrained_ofBytes temp, bufferAge_ofBytes age,
    bufferLaneList_eq_some lanes ok each⟩

end Sys2Proof.Machine
end

section
/-! PROOF. Register writes by address, the rows that own an address, and event flags: O7 and O8, and the
write routing of O6. -/

namespace Sys2Proof.Machine

/-! ### Event flags and ALERT_N (R185, R186) -/

/-- A flag's mask has the flag's bit alone. -/
theorem EventFlag.getLsbD_mask (f : EventFlag) (i : Nat) : f.mask.getLsbD i = (i == f.bit) := by
  have small : f.bit < 8 := by cases f <;> decide
  change (BitVec.twoPow 8 f.bit).getLsbD i = _
  rw [BitVec.getLsbD_twoPow, decide_eq_true small, Bool.true_and, beq_eq_decide]
  exact decide_eq_decide.mpr eq_comm

/-- A byte other than 0x00 has a bit that is 1. -/
theorem ne_zero_iff_getLsbD (b : Byte) : b ≠ 0 ↔ ∃ i < 8, b.getLsbD i = true := by
  constructor
  · intro h
    by_contra none
    refine h (BitVec.eq_of_getLsbD_eq fun i hi => ?_)
    rw [show (0 : Byte).getLsbD i = false from BitVec.getLsbD_zero]
    exact Bool.eq_false_iff.mpr fun hb => none ⟨i, hi, hb⟩
  · rintro ⟨i, _, hb⟩ rfl
    exact absurd (BitVec.getLsbD_zero.symm.trans hb) Bool.false_ne_true

theorem State.alertLow_iff (s : State) : s.alertLow = true ↔
    s.alertEnable = true ∧ ∃ i < 8, s.events.getLsbD i = true ∧ s.eventEn.getLsbD i = true := by
  rw [State.alertLow, Bool.and_eq_true, bne_iff_ne, ne_zero_iff_getLsbD]
  simp only [BitVec.getLsbD_and, Bool.and_eq_true]

/-- Settles O7: the writes as their rows say, on the settled state, and the flags bit by bit. -/
theorem eventWrites : Obligations.EventWrites :=
  ⟨fun _ _ => rfl, fun _ _ => rfl, fun _ _ => rfl, State.alertLow_iff, fun s f i => by
    rw [State.raise_eq, BitVec.getLsbD_or, EventFlag.getLsbD_mask]⟩

/-! ### A write by its address (R171, R193) -/

section
variable (s : State) (v : Byte) {a : Nat}

theorem exec_registerWrite (addr : BitVec 16) :
    exec (.registerWrite addr v) s = .next (s.settle.writeByte addr.toNat v) := rfl

theorem State.writeByte_of_budget (h : 0x50 ≤ a ∧ a < 0x60) :
    s.writeByte a v = s.writeBudgetByte (a - 0x50) v := by
  simp (disch := omega) only [State.writeByte, if_neg, if_pos]

theorem State.writeByte_of_pattern (h : 0x60 ≤ a ∧ a < 0x70) :
    s.writeByte a v = s.writePatternByte (a - 0x60) v := by
  simp (disch := omega) only [State.writeByte, if_neg, if_pos]

theorem State.writeByte_of_port (h : 0x80 ≤ a ∧ a < 0xC0) :
    s.writeByte a v = s.writePortByte (a - 0x80) v := by
  simp (disch := omega) only [State.writeByte, if_neg, if_pos]

theorem State.writeByte_of_buffer (h : 0x100 ≤ a ∧ a < 0x160) :
    s.writeByte a v = s.setMailbox { s.mb with buffer := s.mb.buffer.write (a - 0x100) v } := by
  simp (disch := omega) only [State.writeByte, if_neg, if_pos]

/-- A read-only byte and an address without a register ignore a write (R171, R193). -/
theorem State.writeByte_of_readOnly (h : a < 0x10 ∨ (0x13 ≤ a ∧ a < 0x20) ∨ (0x24 ≤ a ∧ a < 0x40) ∨
    (0x46 ≤ a ∧ a < 0x50) ∨ (0x70 ≤ a ∧ a < 0x80) ∨ (0x80 ≤ a ∧ a < 0xC0 ∧ 2 ≤ a % 8) ∨
    (0xC0 ≤ a ∧ a < 0x100) ∨ 0x160 ≤ a) : s.writeByte a v = s := by
  by_cases port : 0x80 ≤ a ∧ a < 0xC0
  · rw [State.writeByte_of_port s v port, State.writePortByte, if_neg (by omega), if_neg (by omega)]
  · simp (disch := omega) only [State.writeByte, if_neg]

/-- The low byte of an age limit (R171). -/
theorem State.writeByte_of_ageLow (c : ClassId) (h : a = 0x51 + 4 * c.val) :
    s.writeByte a v = s.holdAgeLimit c v := by
  have row : rowIndex 4 (by decide) ((a - 0x50) / 4) = c := Fin.ext (by simp only [rowIndex]; omega)
  rw [State.writeByte_of_budget s v (by omega), State.writeBudgetByte, row, if_neg (by omega),
    if_pos (by omega)]

/-- The low byte of a Pattern Table word (R126, R171). -/
theorem State.writeByte_of_patternLow (w : PatternId) (h : a = 0x60 + 2 * w.val) :
    s.writeByte a v = s.holdPattern w v := by
  have row : rowIndex 8 (by decide) ((a - 0x60) / 2) = w := Fin.ext (by simp only [rowIndex]; omega)
  rw [State.writeByte_of_pattern s v (by omega), State.writePatternByte, row, if_pos (by omega)]

end

/-- Settles O8: each address by the row of the map that holds it. -/
theorem registerWrites : Obligations.RegisterWrites := by
  intro a v s
  rw [exec_registerWrite]
  generalize s.settle = u
  refine ⟨fun h => ?_, fun h => ?_, fun h => ?_, fun c h => ?_, fun w h => ?_, fun lo hi wf => ?_, fun h => ?_⟩
  iterate 3 subst h; rfl
  · rw [u.writeByte_of_ageLow v c h]
    rfl
  · rw [u.writeByte_of_patternLow v w h]
    rfl
  · rw [u.writeByte_of_buffer v ⟨lo, hi⟩]
    have inside : a.toNat - 0x100 < Config.bufferBytes := by rw [Config.bufferBytes]; omega
    generalize a.toNat - 0x100 = off at inside ⊢
    exact ⟨_, rfl, rfl, fun b => Memory.read_write b v wf inside⟩
  · rw [u.writeByte_of_readOnly v h]

/-! ### The command that owns an address (R193, log 21) -/

/-- A choice of commands has an outcome that each choice has. -/
theorem exec_ite {p : Prop} [Decidable p] {i j : Instr} {s : State} {o : Host.Outcome State Fault Refusal}
    (hi : p → exec i s = o) (hj : exec j s = o) : exec (if p then i else j) s = o := by
  split_ifs with h
  · exact hi h
  · exact hj

section
variable {s : State} {v : Byte} {a : Nat}

/-- CTRL is the soft reset or the ALERT enable (R187). -/
theorem exec_ctrlWrite (h : a = 0x10) : exec (if v.getLsbD 0 then .softReset (v.getLsbD 1)
    else .alertEnableWrite (v.getLsbD 1)) s = .next (s.settle.writeByte a v) := by
  have ctrl : s.settle.writeByte a v = s.settle.writeCtrl v := by rw [h]; rfl
  rw [ctrl, State.writeCtrl]
  split_ifs <;> rfl

end

/-- Whichever row carries a write, it is the write of the byte at its address. -/
theorem exec_writeCommand (addr : BitVec 16) (v : Byte) (s : State) :
    exec (writeCommand addr v) s = .next (s.settle.writeByte addr.toNat v) := by
  have single {n : Nat} {i : Instr} (row : exec i s = .next (s.settle.writeByte n v))
      (h : addr.toNat = n) : exec i s = .next (s.settle.writeByte addr.toNat v) := h ▸ row
  refine exec_ite exec_ctrlWrite <| exec_ite (single rfl) <| exec_ite (single rfl) <|
    exec_ite (single rfl) <| exec_ite (single rfl) <| exec_ite (single rfl) <| exec_ite (single rfl) <|
    exec_ite (single rfl) <| exec_ite (single rfl) <| exec_ite (single rfl) <|
    exec_ite (fun h => ?_) <| exec_ite (fun h => ?_) <| exec_ite (fun h => ?_) <|
    exec_ite (fun h => ?_) <| exec_ite (fun h => ?_) <| exec_ite (fun h => ?_) rfl
  · rw [State.writeByte_of_budget _ v (by omega), State.writeBudgetByte, if_pos (by omega)]
    rfl
  · rw [State.writeByte_of_budget _ v (by omega), State.writeBudgetByte, if_neg (by omega),
      if_neg (by omega), if_pos (by omega)]
    rfl
  · rw [State.writeByte_of_budget _ v (by omega), State.writeBudgetByte, if_neg (by omega),
      if_neg (by omega), if_neg (by omega)]
    rfl
  · rw [State.writeByte_of_pattern _ v (by omega), State.writePatternByte, if_neg (by omega)]
    rfl
  · rw [State.writeByte_of_port _ v (by omega), State.writePortByte, if_pos (by omega)]
    rfl
  · rw [State.writeByte_of_port _ v (by omega), State.writePortByte, if_neg (by omega),
      if_pos (by omega)]
    rfl

end Sys2Proof.Machine
end

section
/-! PROOF. The start of a mailbox command: O12. -/

namespace Sys2Proof.Machine

/-! ### The checks at the start (R180 to R182) -/

theorem toUrgency_isSome (b : Byte) : (toUrgency b).isSome = true ↔ b.toNat < 2 := by
  rw [toUrgency]
  split_ifs with h0 h1
  · simp [h0]
  · simp [h1]
  · exact iff_of_false Bool.false_ne_true (by bv_omega)

section
variable {s : State} {code : Byte}

/-- QUEUE_TRAINING: its arguments, its port, its class (R180). -/
theorem State.startCheck_queueTraining (h : code = 0x06) : s.startCheck (s.mb.copyFor code) =
    if h : s.mb.argPort.toNat < 8 ∧ s.mb.argClass.toNat < 4 ∧ s.mb.argUrgency.toNat < 2 then
      if (s.port ⟨s.mb.argPort.toNat, h.1⟩).state = .offline then some .portOffline
      else if s.classEnabled ⟨⟨s.mb.argPort.toNat, h.1⟩, ⟨s.mb.argClass.toNat, h.2.1⟩⟩ then none
      else some .classDisabled
    else some .badValue := by
  rw [State.startCheck, if_pos (show (s.mb.copyFor code).code = 0x06 from h)]
  by_cases key : s.mb.argPort.toNat < 8 ∧ s.mb.argClass.toNat < 4
  · rw [CmdCopy.key_of_lt (c := s.mb.copyFor code) key]
    have urgent := toUrgency_isSome s.mb.argUrgency
    rw [show (s.mb.copyFor code).urgency = s.mb.argUrgency from rfl]
    cases hu : toUrgency s.mb.argUrgency with
    | none =>
      have large : ¬s.mb.argUrgency.toNat < 2 := by rw [← urgent, hu]; exact Bool.false_ne_true
      rw [dif_neg fun h => large h.2.2]
    | some u =>
      have small : s.mb.argUrgency.toNat < 2 := urgent.mp (by rw [hu]; rfl)
      rw [dif_pos ⟨key.1, key.2, small⟩]
      rfl
  · rw [CmdCopy.key_of_not_lt (c := s.mb.copyFor code) key, dif_neg fun h => key ⟨h.1, h.2.1⟩]

/-- CANCEL_TRAINING: its arguments (R181). -/
theorem State.startCheck_cancelTraining (h : code = 0x07) : s.startCheck (s.mb.copyFor code) =
    if s.mb.argPort.toNat < 8 ∧ s.mb.argClass.toNat < 4 then none else some .badValue := by
  subst h
  split_ifs with key
  · rw [State.startCheck, CmdCopy.key_of_lt (c := s.mb.copyFor _) key]
    rfl
  · rw [State.startCheck, CmdCopy.key_of_not_lt (c := s.mb.copyFor _) key]
    rfl

/-- ENABLE_PORT, DISABLE_PORT and CLEAR_HOLD: the port (R182). -/
theorem State.startCheck_port (h : code = 0x08 ∨ code = 0x09 ∨ code = 0x0A) :
    s.startCheck (s.mb.copyFor code) = if s.mb.argPort.toNat < 8 then none else some .badValue := by
  have check : s.startCheck (s.mb.copyFor code) =
      (match toPort s.mb.argPort with | some _ => none | none => some .badValue) := by
    rcases h with rfl | rfl | rfl <;> rfl
  rw [check, toPort]
  split_ifs <;> rfl

/-- The other commands check nothing at their start. -/
theorem State.startCheck_other (h6 : code ≠ 0x06) (h7 : code ≠ 0x07)
    (hport : ¬(code = 0x08 ∨ code = 0x09 ∨ code = 0x0A)) : s.startCheck (s.mb.copyFor code) = none :=
  (if_neg h6).trans ((if_neg h7).trans (if_neg hport))

end

/-! ### MB_CMD (R172, R173) -/

/-- The mailbox right after a start: the code kept, the result cleared, the copy taken (R172). -/
def State.started (s : State) (code : Byte) : State :=
  { s with mb := { s.mb with
    cmd := code, result := .none, retired := false, copy := some (s.mb.copyFor code) } }

theorem State.startCommand_of_busy {s : State} (h : s.mb.copy ≠ none) (code : Byte) :
    s.startCommand code = s.raise .mbRefused := by
  rw [State.startCommand, if_pos (by rw [State.busy, Option.isSome_iff_ne_none]; exact h)]

section
variable {s : State} {code : Byte}

theorem State.startCommand_of_unknown (h : s.mb.copy = none) (hc : isCommand code = false) :
    s.startCommand code = (s.started code).endCommand .badCommand := by
  simp [State.startCommand, State.busy, h, hc, State.started]

/-- A command goes on unless a check of its start ends it. -/
theorem State.startCommand_of_command (h : s.mb.copy = none) (hc : isCommand code = true) :
    s.startCommand code = (s.startCheck (s.mb.copyFor code)).elim (s.started code)
      fun result => (s.started code).endCommand result := by
  have check : (s.started code).startCheck (s.mb.copyFor code) = s.startCheck (s.mb.copyFor code) := rfl
  rw [← check, State.startCommand, if_neg (by simp [State.busy, h])]
  refine (if_pos hc).trans ?_
  rw [← State.started]
  cases (s.started code).startCheck (s.mb.copyFor code) <;> rfl

end

/-- Settles O12: the outcome of the start checks, code by code. -/
theorem commandStarts : Obligations.CommandStarts := by
  rintro code s u rfl
  have run : exec (.commandStart code) s = .next (s.settle.startCommand code) := rfl
  rw [run]
  generalize s.settle = u
  refine ⟨fun h => by rw [State.startCommand_of_busy h]; rfl, ?_⟩
  rintro idle busy ended hbusy hended
  have goes : u.started code = busy := hbusy.symm
  have ends (r : Status) : busy.endCommand r = ended r := by
    rw [← goes]
    exact (hended r).symm
  have known (command : isCommand code = true) :
      u.startCommand code = (u.startCheck (u.mb.copyFor code)).elim busy ended := by
    rw [State.startCommand_of_command idle command, goes]
    exact congrArg _ (funext ends)
  refine ⟨fun hc => ?_, fun hc => ?_, fun hc => ?_, fun hc => ?_, fun hc => ?_⟩
  · have unknown : isCommand code = false := by
      rcases hc with rfl | hc
      · rfl
      · simp [isCommand, Nat.not_le.mpr hc]
    rw [State.startCommand_of_unknown idle unknown, goes, ends]
  · rw [known (by rw [hc]; rfl), State.startCheck_queueTraining hc]
    split_ifs <;> rfl
  · rw [known (by rw [hc]; rfl), State.startCheck_cancelTraining hc]
    split_ifs <;> rfl
  · rw [known (by rcases hc with rfl | rfl | rfl <;> rfl), State.startCheck_port hc]
    split_ifs <;> rfl
  · have start : isCommand code = true ∧ code ≠ 0x06 ∧ code ≠ 0x07 ∧
        ¬(code = 0x08 ∨ code = 0x09 ∨ code = 0x0A) := by
      rcases hc with rfl | rfl | rfl | rfl | rfl | rfl | rfl | rfl | rfl <;> decide
    obtain ⟨command, h6, h7, hport⟩ := start
    rw [known command, State.startCheck_other h6 h7 hport, Option.elim_none]

end Sys2Proof.Machine
end

section
/-! PROOF. The SPI target and the register accesses it makes: O6. -/

namespace Sys2Proof.Machine

/-! ### An immediate command ends when it is settled (R173, R174) -/

section
variable (s : State) (c : CmdCopy)

@[simp] theorem State.copy_endCommand (result : Status) (retired : Bool) :
    (s.endCommand result retired).mb.copy = none := rfl

@[simp] theorem State.copy_carryEnablePort : (s.carryEnablePort c).mb.copy = none := by
  unfold State.carryEnablePort
  split
  · rfl
  · split_ifs <;> rfl

@[simp] theorem State.copy_carryClearHold : (s.carryClearHold c).mb.copy = none := by
  unfold State.carryClearHold
  split
  · rfl
  · split_ifs <;> rfl

@[simp] theorem State.copy_carryGetProfile : (s.carryGetProfile c).mb.copy = none := by
  unfold State.carryGetProfile
  split <;> rfl

@[simp] theorem State.copy_carryListQueue : (s.carryListQueue c).mb.copy = none := rfl

end

/-- After settling the mailbox is IDLE where the standing command waits for nothing (R174). -/
theorem State.copy_settle {s : State} {c : CmdCopy} (h : s.mb.copy = some c) :
    s.settle.mb.copy = if c.code ∈ [0x08#8, 0x0A, 0x0C, 0x0E] then none else some c := by
  have settled := State.settle_of_copy h
  split_ifs with mem
  · simp only [List.mem_cons, List.not_mem_nil, or_false] at mem
    rcases mem with hc | hc | hc | hc <;> simp [settled, hc]
  · simp only [List.mem_cons, List.not_mem_nil, or_false, not_or] at mem
    obtain ⟨h8, hA, hC, hE⟩ := mem
    have kept : s.settle = s := settled.trans <| (if_neg h8).trans <| (if_neg hA).trans <|
      (if_neg hC).trans (if_neg hE)
    rw [kept, h]

/-- A read of the mailbox status (R174). -/
theorem State.readByte_status {s : State} {c : CmdCopy} (h : s.mb.copy = some c) :
    s.readByte 0x24 = if c.code ∈ [0x08#8, 0x0A, 0x0C, 0x0E] then 0 else 1 := by
  have status : s.readByte 0x24 = toByte (bit s.settle.mb.copy.isSome) := rfl
  rw [status, State.copy_settle h]
  split_ifs <;> rfl

/-! ### Bytes from the host (R170) -/

section
variable {s : State} {phase : SpiPhase} {sampled : List Bool}

/-- A bit before the eighth is kept. -/
theorem State.sckRise_of_partial (h : s.spi = some ⟨phase, sampled⟩) (hl : phase.listens = true)
    (hn : sampled.length < 7) (mosi : Bool) :
    s.sckRise mosi = .next { s with spi := some ⟨phase, sampled ++ [mosi]⟩ } := by
  simp [State.sckRise, h, hl, hn]

/-- The eighth bit completes a byte. -/
theorem State.sckRise_of_last (h : s.spi = some ⟨phase, sampled⟩) (hl : phase.listens = true)
    (hn : sampled.length = 7) (mosi : Bool) :
    s.sckRise mosi = s.takeMosi phase (byteOfMsbFirst (sampled ++ [mosi])) := by
  simp [State.sckRise, h, hl, hn]

theorem State.sckRise_of_deaf (h : s.spi = some ⟨phase, sampled⟩) (hl : phase.listens = false)
    (mosi : Bool) : s.sckRise mosi = .next s := by
  simp [State.sckRise, h, hl]

theorem State.sampleBits_singleton (s : State) (mosi : Bool) : s.sampleBits [mosi] = s.sckRise mosi := by
  rw [State.sampleBits]
  cases s.sckRise mosi <;> rfl

/-- Fewer than eight bits are kept and do nothing else. -/
theorem State.sampleBits_of_partial {bits : List Bool} (h : s.spi = some ⟨phase, sampled⟩)
    (hl : phase.listens = true) (hn : sampled.length + bits.length < 8) :
    s.sampleBits bits = .next { s with spi := some ⟨phase, sampled ++ bits⟩ } := by
  induction bits generalizing s sampled with
  | nil => rw [List.append_nil, ← h]; rfl
  | cons mosi bits ih =>
    rw [List.length_cons] at hn
    rw [State.sampleBits, State.sckRise_of_partial h hl (by omega)]
    simp only
    rw [ih rfl (by simp; omega), List.append_assoc]
    rfl

/-- A whole byte acts alike whatever bits were sampled before it. -/
theorem State.takeMosi_spi (hl : phase.listens = true) (x : Option Spi) (v : Byte) :
    ({ s with spi := x } : State).takeMosi phase v = s.takeMosi phase v := by
  cases phase with
  | instruction => rfl
  | addressHigh op => rfl
  | addressLow op high => cases op <;> rfl
  | write addr => rfl
  | read => cases hl
  | ignored => cases hl

/-- Eight bits, the most significant first, are one byte of MOSI. -/
theorem State.sampleBits_msbFirst (h : s.spi = some ⟨phase, []⟩) (hl : phase.listens = true)
    (v : Byte) : s.sampleBits (msbFirst v) = s.takeMosi phase v := by
  have split : msbFirst v = (List.range 7).map v.getMsbD ++ [v.getMsbD 7] := rfl
  have seven := State.sampleBits_of_partial (bits := (List.range 7).map v.getMsbD) h hl (by simp)
  rw [split, State.sampleBits_append _ _ _ _ seven, State.sampleBits_singleton,
    State.sckRise_of_last rfl hl (by simp), List.nil_append, ← split, byteOfMsbFirst_msbFirst,
    State.takeMosi_spi hl]

/-- MISO does not change while the host sends (R170). -/
theorem State.sckFall_of_listens (h : s.spi = some ⟨phase, sampled⟩) (hl : phase.listens = true) :
    s.sckFall = s := by
  rw [State.sckFall, h]
  cases phase with
  | read => cases hl
  | instruction | addressHigh | addressLow | write | ignored => rfl

end

theorem State.takeMosi_instruction (s : State) (v : Byte) : s.takeMosi .instruction v =
    .next (s.inPhase (if v = 0x03 then .addressHigh .read else if v = 0x02 then .addressHigh .write
      else .ignored)) := by
  rw [State.takeMosi, toSpiOp]
  split_ifs <;> rfl

/-! ### Bytes to the host (R170, R171) -/

/-- Falling edges inside a data byte bring its bits in order. -/
theorem State.iterate_sckFall_read (s : State) (addr : BitVec 16) (captured : Option Byte) (k : Nat)
    (bits : List Bool) (hk : k < bits.length) :
    Nat.iterate State.sckFall k (s.inPhase (.read addr captured bits)) =
      s.inPhase (.read addr captured (bits.drop k)) := by
  induction k generalizing bits with
  | zero => rfl
  | succ k ih =>
    match bits, hk with
    | x :: y :: bits, hk =>
      rw [Function.iterate_succ_apply, State.sckFall_inPhase_read,
        ih (y :: bits) (Nat.lt_of_succ_lt_succ hk), List.drop_succ_cons]

/-- The bits of a byte from bit `k` on begin with bit `k`. -/
theorem drop_msbFirst (v : Byte) {k : Nat} (hk : k < 8) :
    (msbFirst v).drop k = v.getMsbD k :: (msbFirst v).drop (k + 1) := by
  rw [List.drop_eq_getElem_cons (by simpa using hk)]
  simp [msbFirst]

section
variable {s : State} {addr : BitVec 16} {captured : Option Byte} {driving sampled : List Bool}

/-- A data byte of a READ: the access at the first falling edge, then its bits (R170, R171, R174). -/
theorem State.iterate_sckFall_of_read (h : s.spi = some ⟨.read addr captured driving, sampled⟩)
    (hd : driving.length ≤ 1) {k : Nat} (hk : k < 8) :
    Nat.iterate State.sckFall (k + 1) s = s.settle.inPhase (.read (addr + 1)
      (if isLowByte addr.toNat then some (s.readByte (addr.toNat + 1)) else none)
      ((msbFirst (captured.getD (s.readByte addr.toNat))).drop k)) := by
  rw [Function.iterate_succ_apply, State.sckFall_of_read h hd, State.driveByte]
  exact State.iterate_sckFall_read _ _ _ k _ (by simpa using hk)

end

/-- Settles O6: the bytes of a transaction bit by bit, each access by the laws above. -/
theorem registerAccesses : Obligations.RegisterAccesses := by
  refine ⟨exec_writeCommand, fun _ _ => rfl, fun s c h => State.readByte_status h,
    fun _ _ => ⟨rfl, rfl, rfl⟩, fun s h => ?_, fun s phase v h hl => ?_, fun s phase bits h hl hn => ?_,
    fun s v high low op => ⟨s.takeMosi_instruction v, rfl, rfl, rfl⟩, fun _ _ _ => rfl,
    fun s addr captured driving sampled h => ⟨State.sckRise_of_deaf h rfl, ?_⟩, fun s sampled h => ?_,
    fun s addr sampled h => by rw [State.miso, h]⟩
  · exact ⟨by rw [State.miso, h], State.sckFall_of_none h, State.sckRise_of_none h⟩
  · exact ⟨State.sckFall_of_listens h hl, State.sampleBits_msbFirst h hl v⟩
  · exact ⟨_, State.sampleBits_of_partial h hl (by simpa using hn), rfl⟩
  · rintro hd v rfl
    refine ⟨fun k hk => ?_, State.iterate_sckFall_of_read h hd (k := 7) (by decide)⟩
    rw [State.iterate_sckFall_of_read h hd hk, drop_msbFirst _ hk]
    rfl
  · exact ⟨by rw [State.miso, h], by rw [State.sckFall, h], State.sckRise_of_deaf h rfl⟩

end Sys2Proof.Machine
end

section
/-! PROOF. What a step takes from the queue of commands, and a step on an empty queue: O1 and O2. -/

namespace Sys2Proof.Machine

/-- Settles O1: the first case of `step`. -/
theorem stepTakesFrontCommand : Obligations.StepTakesFrontCommand := by
  intro c rest s h
  unfold step
  rw [h]

/-! ### A REFCLK period (logs 1, 2 and 9) -/

theorem step_of_pending_nil {s : State} (h : s.pending = []) : step s = .next s.tick := by
  unfold step
  rw [h]

/-- A line that sends, or ends what DISABLE_PORT left on it, begins nothing. -/
theorem Port.startTx_of_busy {x : Port} (h : ¬(x.tx = none ∧ x.finishing = none)) : x.startTx = x := by
  cases ht : x.tx with
  | some f => exact Port.startTx_of_tx ht
  | none =>
    cases hf : x.finishing with
    | some f => simp only [Port.startTx, ht, hf]
    | none => exact absurd ⟨ht, hf⟩ h

theorem State.port_tick (s : State) (p : PortId) : s.tick.port p = (s.port p).startTx :=
  Table.get_map Port.startTx s.ports p

/-- Settles O2: the step is a tick, and each line is idle or busy. -/
theorem stepOnEmptyQueue : Obligations.StepOnEmptyQueue := by
  intro s h
  refine ⟨s.tick, step_of_pending_nil h, rfl, fun p => ?_⟩
  rw [State.port_tick]
  split_ifs with idle
  · exact Port.startTx_of_idle idle.2 idle.1
  · exact Port.startTx_of_busy idle

end Sys2Proof.Machine
end

section
/-! PROOF. The queue of commands along the shared operations: `op_pending` says that `op` leaves it. -/

namespace Sys2Proof.Machine

namespace State

/-! ### Updates of other fields -/

section
variable (s : State)

@[simp] theorem raise_pending (f : EventFlag) : (s.raise f).pending = s.pending := rfl
@[simp] theorem reach_pending (m : Nat) : (s.reach m).pending = s.pending := rfl
@[simp] theorem decide_pending : s.decide.pending = s.pending := rfl
@[simp] theorem rescanAfter_pending (n : Nat) : (s.rescanAfter n).pending = s.pending := rfl
@[simp] theorem requeue_pending (j : Job) : (s.requeue j).pending = s.pending := rfl
@[simp] theorem granted_pending (r : Requester) : (s.granted r).pending = s.pending := rfl
@[simp] theorem setCtx_pending (e : EngineId) (c : Option Ctx) :
    (s.setCtx e c).pending = s.pending := rfl
@[simp] theorem hunt_pending (p : PortId) : (s.hunt p).pending = s.pending := rfl
@[simp] theorem framed_pending (p : PortId) : (s.framed p).pending = s.pending := rfl
@[simp] theorem takeHead_pending (p : PortId) : (s.takeHead p).pending = s.pending := rfl
@[simp] theorem emit_pending (p : PortId) (f : OutFrame) : (s.emit p f).pending = s.pending := rfl
@[simp] theorem welcome_pending (p : PortId) (tag : Byte) :
    (s.welcome p tag).pending = s.pending := rfl
@[simp] theorem answer_pending (p : PortId) (tag : Byte) (st : Status) (gen : Option Nat)
    (flags : Option JobFlags) : (s.answer p tag st gen flags).pending = s.pending := rfl
@[simp] theorem placeEnd_pending (k : Key) (o : JobOutcome) (gen : Option Nat) :
    (s.placeEnd k o gen).pending = s.pending := rfl
@[simp] theorem placeDirective_pending (e : EngineId) (c : Ctx) (resend : Bool) :
    (s.placeDirective e c resend).pending = s.pending := rfl
@[simp] theorem announce_pending (e : EngineId) (c : Ctx) (prior : Option (List PriorLane)) :
    (s.announce e c prior).pending = s.pending := rfl
@[simp] theorem releaseSlot_pending (i : SlotId) : (s.releaseSlot i).pending = s.pending := rfl
@[simp] theorem takeSlot_pending (i : SlotId) (x : Slot) (n : Nat) :
    (s.takeSlot i x n).pending = s.pending := rfl
@[simp] theorem reserveSlot_pending (i : SlotId) (k : Key) :
    (s.reserveSlot i k).pending = s.pending := rfl
@[simp] theorem loseTemp_pending (p : PortId) (clear : Bool) :
    (s.loseTemp p clear).pending = s.pending := rfl
@[simp] theorem enteredOnline_pending : s.enteredOnline.pending = s.pending := rfl
@[simp] theorem enterSyncing_pending (p : PortId) : (s.enterSyncing p).pending = s.pending := rfl
@[simp] theorem startJob_pending (e : EngineId) (j : Job) (v : Int) :
    (s.startJob e j v).pending = s.pending := rfl
@[simp] theorem setBudget_pending (c : ClassId) (b : Budget) :
    (s.setBudget c b).pending = s.pending := rfl
@[simp] theorem handBudgetTests_pending (c : ClassId) :
    (s.handBudgetTests c).pending = s.pending := rfl
@[simp] theorem setProfile_pending (k : Key) (p : Profile) :
    (s.setProfile k p).pending = s.pending := rfl
@[simp] theorem setMailbox_pending (m : Mailbox) : (s.setMailbox m).pending = s.pending := rfl
@[simp] theorem endCommand_pending (st : Status) (retired : Bool) :
    (s.endCommand st retired).pending = s.pending := rfl
@[simp] theorem endWithBuffer_pending (bytes : List Byte) :
    (s.endWithBuffer bytes).pending = s.pending := rfl
@[simp] theorem softReset_pending (alert : Bool) : (s.softReset alert).pending = s.pending := rfl
@[simp] theorem settle_pending : s.settle.pending = s.pending := s.settle_keeps.1

/-! ### The store and its conditions -/

@[simp] theorem advanceStamp_pending : s.advanceStamp.pending = s.pending := by
  obtain ⟨f, n, e⟩ := s.advanceStamp_eq
  rw [e]

@[simp] theorem touch_pending (i : SlotId) : (s.touch i).pending = s.pending :=
  s.advanceStamp_pending

@[simp] theorem releaseReservation_pending (k : Key) : (s.releaseReservation k).pending = s.pending := by
  rw [s.releaseReservation_eq]

@[simp] theorem setHoldOff_pending (k : Key) : (s.setHoldOff k).pending = s.pending := by
  unfold setHoldOff
  split <;> simp

@[simp] theorem clearHoldOff_pending (k : Key) : (s.clearHoldOff k).pending = s.pending := by
  unfold clearHoldOff
  split <;> simp

theorem allocate_pending {t : State} {n : Nat} {i : SlotId} (h : s.allocate n = some (i, t)) :
    t.pending = s.pending := by
  rw [(allocate_spec h).1]

@[simp] theorem notify_pending (r : Record) (kind : NoticeKind) (gen : Nat) :
    (s.notify r kind gen).pending = s.pending := by
  rw [s.notify_eq]

@[simp] theorem staleRequest_pending (r : Record) : (s.staleRequest r).pending = s.pending := by
  rw [s.staleRequest_eq]

@[simp] theorem turnedStale_pending (r : Record) : (s.turnedStale r).pending = s.pending := by
  simp [turnedStale]

@[simp] theorem setCondition_pending (i : SlotId) (c : Condition) :
    (s.setCondition i c).pending = s.pending := by
  rw [s.setCondition_eq]

@[simp] theorem evaluate_pending (f : Record → Condition) : (s.evaluate f).pending = s.pending := by
  rw [(s.evaluate_spec f).1]

@[simp] theorem retireHost_pending (i : SlotId) (r : Record) :
    (s.retireHost i r).pending = s.pending := by simp [retireHost]

/-! ### Jobs and their engines -/

@[simp] theorem enqueue_pending (k : Key) (o : JobOrigin) (u : Urgency) :
    (s.enqueue k o u).1.pending = s.pending := by
  rw [s.enqueue_eq]

@[simp] theorem enqueueAuto_pending (k : Key) : (s.enqueueAuto k).pending = s.pending := by
  rw [s.enqueueAuto_eq]

@[simp] theorem rescanWalk_pending (l : List Record) : (s.rescanWalk l).pending = s.pending := by
  rw [s.rescanWalk_eq]

@[simp] theorem endRun_pending (e : EngineId) (k : Key) : (s.endRun e k).pending = s.pending := by
  simp [endRun]

@[simp] theorem endJob_pending (e : EngineId) (k : Key) (o : JobOutcome) (gen : Option Nat) :
    (s.endJob e k o gen).pending = s.pending := by simp [endJob]

@[simp] theorem endFailed_pending (e : EngineId) (c : Ctx) (o : JobOutcome) :
    (s.endFailed e c o).pending = s.pending := by simp [endFailed]

@[simp] theorem abandon_pending (e : EngineId) (c : Ctx) (sends : Bool) (attempts : Nat) :
    (s.abandon e c sends attempts).pending = s.pending := by
  cases sends <;> simp [abandon]

@[simp] theorem abandonPort_pending (p : PortId) (sends : Bool) :
    (s.abandonPort p sends).pending = s.pending := by
  unfold abandonPort
  split <;> simp

@[simp] theorem cancelJobs_pending (k : Key) : (s.cancelJobs k).pending = s.pending := by
  unfold cancelJobs
  simp only
  split <;> simp

@[simp] theorem removePortJobs_pending (p : PortId) : (s.removePortJobs p).pending = s.pending := by
  unfold removePortJobs
  simp only
  split <;> simp

@[simp] theorem proceed_pending (e : EngineId) (c : Ctx) : (s.proceed e c).pending = s.pending := by
  rcases s.proceed_cases e c with he | he <;> simp [he]

@[simp] theorem reportSent_pending (e : EngineId) (id : Byte) :
    (s.reportSent e id).pending = s.pending := by
  unfold reportSent
  split
  · rfl
  · simp only
    split_ifs <;> simp

/-! ### Replies and port states -/

@[simp] theorem answerAtOnce_pending (p : PortId) (tag : Byte) (st : Status) :
    (s.answerAtOnce p tag st).pending = s.pending := by
  rcases s.answerAtOnce_cases p tag st with e | e <;> simp [e]

@[simp] theorem enterHeld_pending (p : PortId) : (s.enterHeld p).pending = s.pending := by
  simp [enterHeld]

@[simp] theorem disable_pending (p : PortId) : (s.disable p).pending = s.pending := by
  simp [disable]

theorem restart_pending (p : PortId) (next : PortState) {reply : State → State}
    (h : ∀ t, (reply t).pending = t.pending) : (s.restart p next reply).pending = s.pending := by
  simp [restart, h]

end

end State

end Sys2Proof.Machine
end

section
/-! PROOF. The queue of commands along each command, and O3. -/

namespace Sys2Proof.Machine

namespace State

section
variable (s : State)

/-! ### Received frames and transmission -/

@[simp] theorem takeHello_pending (p : PortId) (tag version : Byte) :
    (s.takeHello p tag version).pending = s.pending := by
  unfold takeHello helloSyncing helloRestart
  split_ifs
  · simp
  · simp
  · rw [enteredOnline_pending]
    exact s.restart_pending p .online fun t => t.welcome_pending p tag
  · exact s.restart_pending p .syncing fun t => t.answer_pending p tag .badVersion none none

@[simp] theorem handTest_pending (p : PortId) (v : Int) : (s.handTest p v).pending = s.pending := by
  rw [s.handTest_eq]

@[simp] theorem takeTemp_pending (p : PortId) (v : Int) : (s.takeTemp p v).pending = s.pending := by
  unfold takeTemp
  split_ifs <;> simp [acceptTemp, evaluateTemp]

@[simp] theorem takeRequest_pending (p : PortId) (tag : Byte) (body : ReqBody) :
    (s.takeRequest p tag body).pending = s.pending := by
  unfold takeRequest queueRequest
  split_ifs <;> simp

@[simp] theorem takeWake_pending (p : PortId) (tag : Byte) : (s.takeWake p tag).pending = s.pending := by
  unfold takeWake
  split <;> simp

@[simp] theorem takeReady_pending (p : PortId) (id : Byte) : (s.takeReady p id).pending = s.pending := by
  unfold takeReady
  split
  · split_ifs <;> simp
  · rfl

@[simp] theorem takeResult_pending (p : PortId) (id : Byte) (counts : List Nat) :
    (s.takeResult p id counts).pending = s.pending := by
  unfold takeResult
  split
  · split_ifs <;> simp
  · rfl

@[simp] theorem takeBad_pending (p : PortId) : (s.takeBad p).pending = s.pending := by
  have policy : (s.applyPolicy p).pending = s.pending := by
    unfold applyPolicy
    simp only
    split_ifs <;> simp
  unfold takeBad
  split <;> simp [policy]

theorem takeFrame_pending {α : Type} (p : PortId) (tag : Byte) (parsed : Option α)
    {act : State → α → State} (h : ∀ t a, (act t a).pending = t.pending) :
    (s.takeFrame p tag parsed act).pending = s.pending := by
  rcases s.takeFrame_cases p tag parsed act with ⟨_, e⟩ | ⟨_, e⟩ | ⟨_, _, ⟨a, _, e⟩ | e⟩ <;> simp [e, h]

@[simp] theorem takeResync_pending (p : PortId) (tag : Byte) (payload : List Byte) :
    (s.takeResync p tag payload).pending = s.pending := by
  unfold takeResync
  split_ifs
  · simp
  · exact s.takeFrame_pending p tag _ fun _ _ => rfl

@[simp] theorem frameSent_pending (p : PortId) : (s.frameSent p).pending = s.pending := by
  unfold frameSent
  simp only
  split
  · rfl
  · split <;> simp

/-! ### Services -/

theorem serve_pending {α : Type} (p : PortId) (kind : ReqBody → Option α) {f : State → Byte → α → State}
    (h : ∀ t tag a, (f t tag a).pending = t.pending) : (s.serve p kind f).pending = s.pending := by
  rcases s.serve_cases p kind f with e | ⟨tag, body, a, _, _, e⟩ <;> simp [e, h]

theorem ifEnabled_pending (k : Key) (tag : Byte) {f : State → State} (h : (f s).pending = s.pending) :
    (s.ifEnabled k tag f).pending = s.pending := by
  unfold ifEnabled
  split_ifs <;> simp [h]

@[simp] theorem serveLookup_pending (k : Key) (tag : Byte) :
    (s.serveLookup k tag).pending = s.pending := by
  unfold serveLookup
  split <;> simp [answerAbsent]

@[simp] theorem serveApplied_pending (k : Key) (tag : Byte) (g : Nat) :
    (s.serveApplied k tag g).pending = s.pending := by
  unfold serveApplied
  split
  · simp only
    split_ifs <;> simp
  · rfl

@[simp] theorem serveTrim_pending (k : Key) (tag : Byte) (g : Nat) (deltas : List Int) :
    (s.serveTrim k tag g deltas).pending = s.pending := by
  unfold serveTrim
  split
  · simp only
    split <;> simp
  · rfl

@[simp] theorem serveRetire_pending (k : Key) (tag : Byte) :
    (s.serveRetire k tag).pending = s.pending := by
  unfold serveRetire
  split
  · split_ifs <;> simp
  · simp

@[simp] theorem serveTrain_pending (k : Key) (tag : Byte) (u : Urgency) :
    (s.serveTrain k tag u).pending = s.pending := by simp [serveTrain]

@[simp] theorem servePark_pending (p : PortId) (tag : Byte) :
    (s.servePark p tag).pending = s.pending := by simp [servePark]

/-! ### The mailbox commands -/

theorem onGrant_pending (code : Byte) {f : State → CmdCopy → State}
    (h : ∀ t c, (f t c).pending = t.pending) : (s.onGrant code f).pending = s.pending := by
  rcases s.onGrant_cases code f with e | ⟨c, _, e⟩ <;> simp [e, h]

theorem onGrantKey_pending (code : Byte) {f : State → CmdCopy → Key → State}
    (h : ∀ t c k, (f t c k).pending = t.pending) : (s.onGrantKey code f).pending = s.pending := by
  rcases s.onGrantKey_cases code f with e | ⟨c, _, ⟨k, _, e⟩ | e⟩ <;> simp [e, h]

theorem onCommand_pending (code : Byte) {f : State → CmdCopy → State}
    (h : ∀ c, (f s c).pending = s.pending) : (s.onCommand code f).pending = s.pending := by
  rcases s.onCommand_cases code f with e | ⟨c, _, _, e⟩ <;> simp [e, h]

@[simp] theorem startCommand_pending (code : Byte) : (s.startCommand code).pending = s.pending := by
  unfold startCommand
  simp only
  split_ifs
  · simp
  · split <;> simp
  · simp

@[simp] theorem carryEnablePort_pending (c : CmdCopy) :
    (s.carryEnablePort c).pending = s.pending := by
  unfold carryEnablePort
  split
  · rfl
  · split_ifs <;> simp

@[simp] theorem carryClearHold_pending (c : CmdCopy) :
    (s.carryClearHold c).pending = s.pending := by
  unfold carryClearHold
  split
  · rfl
  · split_ifs <;> simp

@[simp] theorem carryDisablePort_pending (c : CmdCopy) :
    (s.carryDisablePort c).pending = s.pending := by
  unfold carryDisablePort
  split
  · rfl
  · split_ifs <;> simp

@[simp] theorem carryCancelTraining_pending (c : CmdCopy) :
    (s.carryCancelTraining c).pending = s.pending := by
  unfold carryCancelTraining
  split
  · rfl
  · split_ifs <;> simp

@[simp] theorem carryGetProfile_pending (c : CmdCopy) :
    (s.carryGetProfile c).pending = s.pending := by
  unfold carryGetProfile
  split <;> rfl

@[simp] theorem carryReadRecord_pending (c : CmdCopy) (k : Key) :
    (s.carryReadRecord c k).pending = s.pending := by
  unfold carryReadRecord
  split <;> rfl

@[simp] theorem carryPin_pending (k : Key) (on : Bool) : (s.carryPin k on).pending = s.pending := by
  unfold carryPin
  split <;> rfl

@[simp] theorem carryRetireRecord_pending (c : CmdCopy) (k : Key) :
    (s.carryRetireRecord c k).pending = s.pending := by
  unfold carryRetireRecord
  split <;> simp

@[simp] theorem carryQueueTraining_pending (c : CmdCopy) (k : Key) :
    (s.carryQueueTraining c k).pending = s.pending := by
  unfold carryQueueTraining
  split <;> simp

@[simp] theorem carrySetProfile_pending (c : CmdCopy) (k : Key) :
    (s.carrySetProfile c k).pending = s.pending := by
  unfold carrySetProfile
  split_ifs
  · rfl
  · split
    · rfl
    · simp only
      split_ifs
      · split <;> simp
      · simp

@[simp] theorem preloadOver_pending (m : Memory) (lanes : List LaneEntry) (i : SlotId) (r : Record) :
    (s.preloadOver m lanes i r).pending = s.pending := by
  unfold preloadOver
  simp only
  split_ifs <;> simp

@[simp] theorem preloadNew_pending (m : Memory) (lanes : List LaneEntry) (i : SlotId) (k : Key) :
    (s.preloadNew m lanes i k).pending = s.pending := by
  unfold preloadNew
  simp only
  split_ifs <;> simp

@[simp] theorem carryPreload_pending (c : CmdCopy) (k : Key) :
    (s.carryPreload c k).pending = s.pending := by
  unfold carryPreload
  simp only
  split_ifs
  · rfl
  · rfl
  · split <;> rfl
  · split
    · split
      · simp
      · split
        · next ha => simp [s.allocate_pending ha]
        · simp
    · rfl

/-! ### Register writes -/

@[simp] theorem writeCtrl_pending (v : Byte) : (s.writeCtrl v).pending = s.pending := by
  unfold writeCtrl
  split_ifs <;> simp

@[simp] theorem writeTrw_pending (v : Byte) : (s.writeTrw v).pending = s.pending := by
  unfold writeTrw
  split_ifs <;> simp

@[simp] theorem writeWindowLimit_pending (v : Byte) : (s.writeWindowLimit v).pending = s.pending := by
  unfold writeWindowLimit
  split_ifs <;> simp

@[simp] theorem writeSpaceAny_pending (v : Byte) : (s.writeSpaceAny v).pending = s.pending := by
  unfold writeSpaceAny
  split_ifs <;> simp

@[simp] theorem writeSpaceGroup_pending (v : Byte) : (s.writeSpaceGroup v).pending = s.pending := by
  unfold writeSpaceGroup
  split_ifs <;> simp

@[simp] theorem writeTrialTimeout_pending (v : Byte) : (s.writeTrialTimeout v).pending = s.pending := by
  unfold writeTrialTimeout
  split_ifs <;> simp

@[simp] theorem writeFreshTime_pending (v : Byte) : (s.writeFreshTime v).pending = s.pending := by
  unfold writeFreshTime
  split_ifs <;> simp

@[simp] theorem writeDriftBudget_pending (c : ClassId) (v : Byte) :
    (s.writeDriftBudget c v).pending = s.pending := by
  unfold writeDriftBudget
  split_ifs <;> simp [evaluateBudget]

@[simp] theorem writeAgeLimit_pending (c : ClassId) (v : Byte) :
    (s.writeAgeLimit c v).pending = s.pending := by
  unfold writeAgeLimit
  simp only
  split_ifs <;> simp [evaluateBudget]

@[simp] theorem writeTrimLimit_pending (c : ClassId) (v : Byte) :
    (s.writeTrimLimit c v).pending = s.pending := by
  unfold writeTrimLimit
  split_ifs <;> simp [evaluateBudget]

@[simp] theorem writeBudgetByte_pending (off : Nat) (v : Byte) :
    (s.writeBudgetByte off v).pending = s.pending := by
  unfold writeBudgetByte
  simp only
  split_ifs <;> simp [holdAgeLimit]

@[simp] theorem writePatternByte_pending (off : Nat) (v : Byte) :
    (s.writePatternByte off v).pending = s.pending := by
  unfold writePatternByte
  simp only
  split_ifs <;> rfl

@[simp] theorem writeAutotrain_pending (p : PortId) (v : Byte) :
    (s.writeAutotrain p v).pending = s.pending := by
  rw [s.writeAutotrain_eq]

@[simp] theorem writePortByte_pending (off : Nat) (v : Byte) :
    (s.writePortByte off v).pending = s.pending := by
  unfold writePortByte
  simp only
  split_ifs <;> simp [writeErrorPolicy]

@[simp] theorem writeByte_pending (a : Nat) (v : Byte) : (s.writeByte a v).pending = s.pending := by
  simp [writeByte, apply_ite State.pending]

/-! ### Timers and training -/

@[simp] theorem expireFreshness_pending (p : PortId) : (s.expireFreshness p).pending = s.pending := by
  unfold expireFreshness
  split <;> simp

@[simp] theorem expireAge_pending (i : SlotId) : (s.expireAge i).pending = s.pending := by
  unfold expireAge
  split
  · simp only
    split_ifs <;> simp
  · rfl
  · rfl

@[simp] theorem expireTrial_pending (e : EngineId) : (s.expireTrial e).pending = s.pending := by
  unfold expireTrial
  split
  · rfl
  · split
    · rfl
    · simp only
      split_ifs <;> simp

@[simp] theorem departStart_pending : s.departStart.pending = s.pending := by
  unfold departStart
  split <;> simp

@[simp] theorem expireSpaceAny_pending : s.expireSpaceAny.pending = s.pending := by
  unfold expireSpaceAny
  split <;> simp

@[simp] theorem expireSpaceGroup_pending (g : GroupId) : (s.expireSpaceGroup g).pending = s.pending := by
  unfold expireSpaceGroup
  split <;> simp

@[simp] theorem takeAutoRequest_pending : s.takeAutoRequest.pending = s.pending := by
  unfold takeAutoRequest
  split
  · rfl
  · simp only
    split_ifs <;> simp

@[simp] theorem onMoved_pending (e : EngineId) (c : Ctx) : (s.onMoved e c).pending = s.pending := by
  unfold onMoved
  split_ifs <;> simp

@[simp] theorem takeTest_pending (e : EngineId) : (s.takeTest e).pending = s.pending := by
  unfold takeTest
  split
  · rfl
  · simp only
    split
    · simp
    · split_ifs <;> simp

@[simp] theorem decideStart_pending : s.decideStart.pending = s.pending := by
  unfold decideStart
  split_ifs
  · simp only
    split
    · split_ifs <;> simp
    · rfl
  · rfl

@[simp] theorem rescan_pending : s.rescan.pending = s.pending := by
  unfold rescan
  split <;> simp

theorem onRequest_pending (e : EngineId) {f : Ctx → StoreRequest → State}
    (h : ∀ c q, (f c q).pending = s.pending) : (s.onRequest e f).pending = s.pending := by
  rcases s.onRequest_cases e f with he | ⟨c, q, _, _, he⟩ <;> simp [he, h]

@[simp] theorem reserve_pending (e : EngineId) (c : Ctx) : (s.reserve e c).pending = s.pending := by
  unfold reserve
  simp only
  split
  · simp
  · rfl
  · split
    · next ha => simp [s.allocate_pending ha]
    · simp [endStoreFull]

@[simp] theorem commit_pending (e : EngineId) (c : Ctx) : (s.commit e c).pending = s.pending := by
  unfold commit
  simp only
  split
  · rfl
  · split <;> simp

end

end State

/-! ### Every command -/

/-- No command touches the queue of commands. -/
theorem exec_pending {c : Instr} {s t : State} (h : exec c s = .next t) : t.pending = s.pending := by
  cases c <;> obtain rfl := Host.Outcome.next.inj h
  case hardwareReset => rfl
  case softReset | alertEnableWrite | eventsWrite | eventEnWrite | registerWrite | trwWrite
    | windowLimitWrite | spaceAnyWrite | spaceGroupWrite | trialTimeoutWrite | freshTimeWrite
    | driftBudgetWrite | ageLimitWrite | trimLimitWrite | autotrainWrite | commandStart => simp
  case errorPolicyWrite | patternWordWrite => exact s.settle_pending
  case readRecord => exact s.onGrantKey_pending _ State.carryReadRecord_pending
  case preloadRecord => exact s.onGrantKey_pending _ State.carryPreload_pending
  case retireRecord => exact s.onGrantKey_pending _ State.carryRetireRecord_pending
  case pin => exact s.onGrantKey_pending _ fun t _ k => t.carryPin_pending k true
  case unpin => exact s.onGrantKey_pending _ fun t _ k => t.carryPin_pending k false
  case queueTraining => exact s.onGrantKey_pending _ State.carryQueueTraining_pending
  case setProfile => exact s.onGrantKey_pending _ State.carrySetProfile_pending
  case listRecords => exact s.onGrant_pending _ fun _ _ => rfl
  case cancelTraining => exact s.onCommand_pending _ s.carryCancelTraining_pending
  case enablePort => exact s.onCommand_pending _ s.carryEnablePort_pending
  case disablePort => exact s.onCommand_pending _ s.carryDisablePort_pending
  case clearHold => exact s.onCommand_pending _ s.carryClearHold_pending
  case getProfile => exact s.onCommand_pending _ s.carryGetProfile_pending
  case listQueue => exact s.onCommand_pending _ fun _ => rfl
  case hello => exact s.takeFrame_pending _ _ _ fun t => t.takeHello_pending _ _
  case temp => exact s.takeFrame_pending _ _ _ fun t => t.takeTemp_pending _
  case lookup | applied | trim | train | retire | park =>
    exact s.takeFrame_pending _ _ _ fun t _ => t.takeRequest_pending _ _ _
  case wake => exact s.takeFrame_pending _ _ _ fun t _ => t.takeWake_pending _ _
  case ready => exact s.takeFrame_pending _ _ _ fun t => t.takeReady_pending _
  case result =>
    refine s.takeFrame_pending _ _ _ fun t a => ?_
    cases a with
    | some x => exact t.takeResult_pending _ _ _
    | none => rfl
  case unknownKindFrame =>
    split_ifs
    · rfl
    · exact s.takeFrame_pending _ _ _ fun _ _ => rfl
  case badFrame => split_ifs <;> simp
  case startByteReceived => split_ifs <;> simp
  case lookupService =>
    exact s.serve_pending _ _ fun t tag _ => t.ifEnabled_pending _ _ (t.serveLookup_pending _ tag)
  case appliedService =>
    exact s.serve_pending _ _ fun t tag _ => t.ifEnabled_pending _ _ (t.serveApplied_pending _ tag _)
  case trimService =>
    exact s.serve_pending _ _ fun t tag _ => t.ifEnabled_pending _ _ (t.serveTrim_pending _ tag _ _)
  case retireService =>
    exact s.serve_pending _ _ fun t tag _ => t.ifEnabled_pending _ _ (t.serveRetire_pending _ tag)
  case trainService =>
    exact s.serve_pending _ _ fun t tag _ => t.ifEnabled_pending _ _ (t.serveTrain_pending _ tag _)
  case parkService => exact s.serve_pending _ _ fun t tag _ => t.servePark_pending _ tag
  case resync | autoRequest | frameSent | deferredFramePlacement | freshnessExpiry | ageTimerExpiry
    | trialTimerExpiry | temperatureMovementTest | startListDeparture | spaceAnyExpiry
    | spaceGroupExpiry | startDecision | rescan => simp
  case reservation => exact s.onRequest_pending _ fun c q => by split_ifs <;> simp
  case commit => exact s.onRequest_pending _ fun c q => by split_ifs <;> simp
  case noEye => exact s.onRequest_pending _ fun c q => by split_ifs <;> simp
  case failureOperation =>
    refine s.onRequest_pending _ fun c q => ?_
    cases q with
    | failure o => exact s.endFailed_pending _ c o
    | reserve | commit | noEye => rfl

/-- Every meaning answers a next state (log 17). -/
theorem exec_next (c : Instr) (s : State) : ∃ t, exec c s = .next t := by
  cases c <;> exact ⟨_, rfl⟩

/-- Settles O3: every command answers a next state, and no command touches the queue. -/
theorem everyCommandCompletes : Obligations.EveryCommandCompletes := by
  intro c s
  obtain ⟨t, h⟩ := exec_next c s
  exact ⟨t, h, exec_pending h⟩

end Sys2Proof.Machine
end
